-- ==== Sys2Proof/Word.lean ====
section
/-! DEFINITION. The word types of the block (spec/00_scope.md R6, R8): plain bit vectors, bit 0 the least significant bit,
every value unsigned. A one-bit port or register is a `Bool`, `true` standing for 1. -/

namespace Sys2Proof

/-- One channel of a pixel word, and one byte of an encoded operation (R44, R45). -/
abbrev Byte := BitVec 8

/-- Format DIGIT: the four bits of CNT and DIG (R67). -/
abbrev Digit := BitVec 4

/-- Format POSITION, and a glyph cell index: the five bits of POS (R65, R66). -/
abbrev Position := BitVec 5

/-- Format PIXWORD: the 32-bit word of the pixel sink (R64). -/
abbrev PixWord := BitVec 32

/-- The decode word D of a step (R60). -/
abbrev DecodeWord := BitVec 6

/-- The strobe word IN of a script statement (R73). -/
abbrev StrobeWord := BitVec 5

/-- An intensity of one colour channel: a real number in [0, 1] (R83). -/
abbrev Intensity := { x : ℝ // 0 ≤ x ∧ x ≤ 1 }

/-- Intensity 0.0: an unlit channel (R84). -/
def Intensity.dark : Intensity := ⟨0, le_rfl, zero_le_one⟩

/-- Intensity 1.0: a lit channel (R84). -/
def Intensity.full : Intensity := ⟨1, zero_le_one, le_rfl⟩

end Sys2Proof
end

