-- ==== Sys2Proof/Config.lean ====
section
/-! DEFINITION. What is fixed for the machine (spec/00_scope.md R6): the literals of the source, each under its own name (D25),
and the parameters and free choices that the spec leaves OPEN. An open one is an `opaque` constant with no body, so that nothing
can be proved that holds for one value of it only. -/

namespace Sys2Proof

namespace Config

/-- ROWS. -/
abbrev rows : Nat := 5

/-- COLS. -/
abbrev cols : Nat := 5

/-- NUM_PIXELS: the matrix positions of one frame. -/
abbrev numPixels : Nat := 25

/-- NUM_DIGITS. -/
abbrev numDigits : Nat := 10

/-- DEBOUNCE_US: the debounce window in microseconds. -/
def debounceUs : Nat := 200000

/-- BRIGHTNESS: 1 %. -/
def brightness : Rat := 1 / 100

/-- FULL_SCALE. -/
def fullScale : Rat := 255

/-- LIT_BYTE: the channel byte of intensity 1. -/
def litByte : Byte := 2

/-- LIT_WORD: the pixel word of a lit cell. -/
def litWord : PixWord := 0x02020200

/-- The least TIME_WIDTH the block admits (R7): DEBOUNCE_US + 1 must fit in a timestamp. -/
def minTimeWidth : Nat := 18

/-- OPEN: how far TIME_WIDTH exceeds its least value (D5, log 1). -/
opaque extraTimeWidth : Nat

/-- TIME_WIDTH, OPEN but for R7: no configuration below 18 can be written, which is how the model refuses one (log 1). -/
def timeWidth : Nat := minTimeWidth + extraTimeWidth

end Config

/-- Format TIME: `now_us`, TSA and TSB, in microseconds (R68). -/
abbrev Time := BitVec Config.timeWidth

/-- A glyph table: for each digit, 25 cells in row-major order, `true` for lit (R41). -/
abbrev GlyphTable := Fin Config.numDigits → Fin Config.numPixels → Bool

/-- The input ports, one sample of each for one step (R31). -/
structure Inputs where
  /-- `rst`: 1 = reset in this step. -/
  rst : Bool
  /-- `now_us`: the external microsecond counter. -/
  nowUs : Time
  /-- `edge_a`: one falling edge of button A in this step. -/
  edgeA : Bool
  /-- `edge_b`: one falling edge of button B in this step. -/
  edgeB : Bool
  /-- `frame_start`: the host requests one frame. -/
  frameStart : Bool
  /-- `pix_ready`: the sink accepts a word in this step. -/
  pixReady : Bool
  deriving DecidableEq, Repr, Inhabited

namespace Config

/-- OPEN: GLYPH_TABLE, the contents of the glyph ROM (R28, R41, D17, log 7). -/
opaque glyphTable : GlyphTable

/-- OPEN: ENC_CHANNEL, any function on the reals in [0, 1] that obeys R83's four laws. One that breaks a law counts for nothing:
`encFrom` admits exactly the lawful ones (D18, log 8). -/
opaque encFunction : Intensity → Byte

/-- OPEN: SINK_GEOMETRY, the row and column of the matrix at which a physical position sits. No rule uses it (D23, log 9). -/
opaque sinkGeometry : Fin numPixels → Fin rows × Fin cols

/-- Free value: what the environment presents at the input ports in step number `tick` where no script lays the inputs out
(R139, log 2). -/
opaque environment (tick : Nat) : Inputs

/-- Free value: the draw of ACCEPT for button A when `now < last` (R110, D6, log 3). -/
opaque drawAcceptA (tick : Nat) (now last : Time) : Bool

/-- Free value: the draw of ACCEPT for button B when `now < last` (R110, D6, log 3). -/
opaque drawAcceptB (tick : Nat) (now last : Time) : Bool

/-- Free value: the draw of a frame start's read of CNT, `true` for the value before the step's updates (R52, D10, log 3). -/
opaque drawFrame (tick : Nat) (pre post : Digit) : Bool

end Config

end Sys2Proof
end

