-- ==== Sys2Proof/Syntax.lean ====
section
/-! DEFINITION. The operations of the block, one constructor for each row of spec/opcode_table.json (spec/30_encoding.md R61),
and the abstract syntax of stimulus scripts (R71, R72). An operation takes no immediates (R69): its data operands are `now_us`
and the state registers. -/

namespace Sys2Proof

/-- The operations a step can perform. -/
inductive Instr where
  | reset
  | edgeA
  | edgeB
  | frameStart
  | frameStartIgnored
  | pixelTransfer
  | pixelHold
  | seqIdle
  deriving DecidableEq, Repr

/-- Every operation, in the order of the opcode table. It is also the order in which a step performs the ones it selects: edge A
before edge B before the sequencer (R62, R135). -/
def Instr.all : List Instr :=
  [.reset, .edgeA, .edgeB, .frameStart, .frameStartIgnored, .pixelTransfer, .pixelHold, .seqIdle]

/-- One `field` of a STEP statement (R71). -/
inductive Field where
  | now (t : Nat)
  | rst
  | a
  | b
  | start
  | ready
  deriving DecidableEq, Repr

/-- One `stmt` of a stimulus script: a STEP or a pseudo-instruction (R71, R72). -/
inductive Stmt where
  | step (fields : List Field)
  | reset (now : Option Nat)
  | pressA (t : Nat)
  | pressB (t : Nat)
  | pressAB (t : Nat)
  | idle (n : Nat)
  | stall (n : Nat)
  | drain (n : Nat)
  | frame
  deriving DecidableEq, Repr

/-- One `line` of a script: a label, which is annotation only, and a statement; the comment is dropped (R71). -/
structure Line where
  label : Option (List Char)
  stmt : Option Stmt
  deriving DecidableEq, Repr

end Sys2Proof
end

