-- ==== Sys2Proof/WellFormed.lean ====
section
/-! DEFINITION. Which configurations, selections of operations and script statements are well formed. A single operation has no
operand of its own (R69), so nothing can be wrong with one; what can be wrong is a SET of operations that no decode word selects
(spec/30_encoding.md R63). -/

namespace Sys2Proof

/-- R7: a time width the block admits. -/
def Config.admitsTimeWidth (w : Nat) : Bool := decide (Config.minTimeWidth ≤ w)

namespace Instr

/-- The place of an operation in the order in which a step performs its operations (R62, R135). -/
def rank : Instr → Nat
  | .reset => 0
  | .edgeA => 1
  | .edgeB => 2
  | .frameStart => 3
  | .frameStartIgnored => 4
  | .pixelTransfer => 5
  | .pixelHold => 6
  | .seqIdle => 7

/-- The sequencer operations, of which every step without reset performs exactly one (R63). -/
def isSequencer : Instr → Bool
  | .reset => false
  | .edgeA => false
  | .edgeB => false
  | .frameStart => true
  | .frameStartIgnored => false
  | .pixelTransfer => true
  | .pixelHold => true
  | .seqIdle => true

/-- The operations stand in the order in which they are performed, none twice. -/
def rising : List Instr → Bool
  | [] => true
  | [_] => true
  | i :: j :: rest => decide (i.rank < j.rank) && rising (j :: rest)

/-- A reset stands alone (R63). -/
def resetAlone (ops : List Instr) : Bool := !ops.contains .reset || ops == [.reset]

/-- Without a reset there is exactly one sequencer operation (R63). -/
def oneSequencer (ops : List Instr) : Bool := ops.contains .reset || (ops.filter isSequencer).length == 1

/-- An ignored request occurs only while a frame is in progress (R63). -/
def ignoredWhileBusy (ops : List Instr) : Bool :=
  !ops.contains .frameStartIgnored || ops.contains .pixelTransfer || ops.contains .pixelHold

/-- A list of operations that one step can perform. -/
def wellFormedSet (ops : List Instr) : Bool :=
  rising ops && resetAlone ops && oneSequencer ops && ignoredWhileBusy ops

end Instr

namespace Stmt

/-- A number that fits in `now_us` when it is `w` bits wide (R68). -/
def timeFits (w t : Nat) : Bool := decide (t < 2 ^ w)

/-- The times that the fields of a STEP name. -/
def times : List Field → List Nat
  | [] => []
  | .now t :: rest => t :: times rest
  | .rst :: rest => times rest
  | .a :: rest => times rest
  | .b :: rest => times rest
  | .start :: rest => times rest
  | .ready :: rest => times rest

/-- A statement whose times fit in `w` bits and whose STEP names at most one time (log 10). -/
def wellFormed (w : Nat) : Stmt → Bool
  | .step fields => (times fields).all (timeFits w) && decide ((times fields).length ≤ 1)
  | .reset (some t) => timeFits w t
  | .reset none => true
  | .pressA t => timeFits w t
  | .pressB t => timeFits w t
  | .pressAB t => timeFits w t
  | .idle _ => true
  | .stall _ => true
  | .drain _ => true
  | .frame => true

end Stmt

end Sys2Proof
end

