-- ==== Sys2Proof/Decode.lean ====
section
/-! DEFINITION. The decode word of a step and the operations it selects (spec/30_encoding.md R60 to R63), the decoder from bytes,
the encoder, and the strobe word of a script statement (R73, R74). -/

namespace Sys2Proof

/-- The mask of an operation's row (R61). -/
def Instr.mask : Instr → DecodeWord
  | .reset => 0x20
  | .edgeA => 0x30
  | .edgeB => 0x28
  | .frameStart => 0x25
  | .frameStartIgnored => 0x25
  | .pixelTransfer => 0x23
  | .pixelHold => 0x23
  | .seqIdle => 0x25

/-- The `match` column of an operation's row (R61). -/
def Instr.pattern : Instr → DecodeWord
  | .reset => 0x20
  | .edgeA => 0x10
  | .edgeB => 0x08
  | .frameStart => 0x04
  | .frameStartIgnored => 0x05
  | .pixelTransfer => 0x03
  | .pixelHold => 0x01
  | .seqIdle => 0x00

/-- R61: an operation is selected when `D & mask = match`. -/
def Instr.selectedBy (i : Instr) (d : DecodeWord) : Bool := d &&& i.mask == i.pattern

/-- The operations that a decode word selects, in the order in which the step performs them (R61, R62). -/
def selected (d : DecodeWord) : List Instr := Instr.all.filter fun i => i.selectedBy d

/-- R73: the strobe word `IN = {RST, A, B, START, READY}` of one sample of the inputs. -/
def Inputs.strobes (i : Inputs) : StrobeWord :=
  BitVec.ofBool i.rst ++ BitVec.ofBool i.edgeA ++ BitVec.ofBool i.edgeB ++ BitVec.ofBool i.frameStart ++
    BitVec.ofBool i.pixReady

/-- The inputs whose strobe word is `w`, at time `now` (R73). -/
def Inputs.ofStrobes (w : StrobeWord) (now : Time) : Inputs where
  rst := w.getLsbD 4
  nowUs := now
  edgeA := w.getLsbD 3
  edgeB := w.getLsbD 2
  frameStart := w.getLsbD 1
  pixReady := w.getLsbD 0

/-- R60: `D = {rst, edge_a, edge_b, frame_start, pix_ready, BUSY}`. -/
def decodeWord (i : Inputs) (busy : Bool) : DecodeWord :=
  BitVec.ofBool i.rst ++ BitVec.ofBool i.edgeA ++ BitVec.ofBool i.edgeB ++ BitVec.ofBool i.frameStart ++
    BitVec.ofBool i.pixReady ++ BitVec.ofBool busy

/-- Why bytes are no decode word. -/
inductive DecodeError where
  /-- There is no byte to read. -/
  | noByte
  /-- Bit 7 or bit 6 of the byte is set; the decode word has six bits. -/
  | highBits (b : Byte)
  deriving DecidableEq, Repr

/-- The decoder on bytes: one byte holds a decode word in its low six bits (log 11). It answers the selected operations and the
bytes that follow. -/
def decode : List Byte → Except DecodeError (List Instr × List Byte)
  | [] => .error .noByte
  | b :: rest => if b &&& 0xC0 = 0 then .ok (selected (b.setWidth 6), rest) else .error (.highBits b)

/-- The byte of a decode word. -/
def wordByte (d : DecodeWord) : Byte := d.setWidth 8

/-- The decode word of one operation whose don't-care bits are those of `fill` (R61). -/
def encode (i : Instr) (fill : DecodeWord) : DecodeWord := i.pattern ||| (fill &&& ~~~i.mask)

/-- The decode word of a set of operations, every don't-care bit 0. -/
def encodeSet : List Instr → DecodeWord
  | [] => 0
  | i :: rest => i.pattern ||| encodeSet rest

/-- `n` bytes of `w`, the first holding its least significant bits. -/
def bytesOf : Nat → Nat → List Byte
  | 0, _ => []
  | n + 1, w => BitVec.ofNat 8 w :: bytesOf n (w / 256)

/-- The operation the decoder reads from a word of the opcode table: of those the word selects, the first in the table's order
(log 11). -/
def decodeTableWord (nbits w : Nat) : Option Instr :=
  match decode (bytesOf ((nbits + 7) / 8) w) with
  | .error _ => none
  | .ok (ops, _) => ops.head?

end Sys2Proof
end

