-- ==== Sys2Proof/Machine/State.lean ====
section
/-! DEFINITION. The state of the block as plain data: the six registers of spec/10_state.md R20, the ports of one step (R31, R32),
the sequence of words the sink has received (spec/20_memory.md R40, R47), and three fields of the model's own. -/

namespace Sys2Proof.Machine

/-- The model faults of spec/60_exceptions.md R131, each with the value it records. All are safe: the states that raise them are
unreachable from reset, and the spec itself gives the fault as the reading of the source's "undefined" (D19). -/
inductive Fault where
  /-- Code 1, DIGIT_RANGE: raised by GLYPH_LOOKUP, and by FRAME_START's read of CNT, for a digit 10..15. Safe. -/
  | digitRange (value : Digit)
  /-- Code 2, POS_RANGE: raised by MIRROR and GLYPH_LOOKUP for a position or cell index 25..31. Safe. -/
  | posRange (index : Position)
  /-- Code 3, GROM_RANGE: raised by a read of the glyph ROM at a flat address outside 0..249. Safe. -/
  | gromRange (address : Int)
  deriving DecidableEq, Repr

/-- The code column of R131. -/
def Fault.code : Fault → Nat
  | .digitRange _ => 1
  | .posRange _ => 2
  | .gromRange _ => 3

/-- Why the model gives an operation no meaning. -/
inductive Refusal where
  /-- Raised by `exec` for an operation without a meaning. Every operation of this block has one, so nothing raises it. Safe. -/
  | notModelled (mnemonic : String)
  deriving DecidableEq, Repr

/-- The output ports, as driven in one step (R32). -/
structure Outputs where
  /-- `pix_valid`: a word is offered to the sink. -/
  pixValid : Bool
  /-- `pix_data`: the word offered. -/
  pixData : PixWord
  /-- `busy`: a frame is in progress. -/
  busy : Bool
  /-- `cnt_out`: the counter. -/
  cntOut : Digit
  deriving DecidableEq, Repr

/-- The state. The first six fields are the block's registers and nothing else of the block persists (R20). -/
structure State where
  /-- CNT, the counter (R21). -/
  cnt : Digit
  /-- TSA, the time of button A's last accepted edge (R23). -/
  tsa : Time
  /-- TSB, the time of button B's last accepted edge (R24). -/
  tsb : Time
  /-- BUSY, the sequencer's state (R26). -/
  busy : Bool
  /-- POS, the position now offered to the sink (R25). -/
  pos : Position
  /-- DIG, the digit of the frame in progress (R27). -/
  dig : Digit
  /-- The input ports as sampled in the step last begun (R31). -/
  inp : Inputs
  /-- The output ports as driven in the step last begun (R32). -/
  out : Outputs
  /-- SINK: the words the sink has received, the oldest first (R40, R47). -/
  sink : List PixWord
  /-- The model's own: CNT at the start of the step in progress, which a frame start may read (R51, R52). -/
  cntPre : Digit
  /-- The model's own: input samples laid out for the coming steps, the next one first (R71, log 2). -/
  stim : List Inputs
  /-- The model's own: the number of steps taken, which indexes the free values (log 3). -/
  tick : Nat
  deriving DecidableEq, Repr

/-- RESET_STATE, the state a run starts in (spec/70_reset_and_hazards.md R150, R151): the six registers at the values the spec
states, and the other fields at the values of logs 2, 3 and 4. -/
def State.reset : State where
  cnt := 0
  tsa := 0
  tsb := 0
  busy := false
  pos := 0
  dig := 0
  inp := { rst := false, nowUs := 0, edgeA := false, edgeB := false, frameStart := false, pixReady := false }
  out := { pixValid := false, pixData := 0, busy := false, cntOut := 0 }
  sink := []
  cntPre := 0
  stim := []
  tick := 0

end Sys2Proof.Machine
end

