-- ==== Sys2Proof/Machine/Ops.lean ====
section
/-! DEFINITION. The named operations over registers, glyph ROM, sink and ports. The block has no trap mechanism
(spec/60_exceptions.md R130, R134): there is no exception entry and no return from one, so this file holds none. -/

namespace Sys2Proof.Machine

/-! ## Register writes (R46: a register update writes a whole register) -/

/-- `CNT' <- v`. -/
def State.setCnt (s : State) (v : Digit) : State := { s with cnt := v }

/-- `TSA' <- t`. -/
def State.setTsa (s : State) (t : Time) : State := { s with tsa := t }

/-- `TSB' <- t`. -/
def State.setTsb (s : State) (t : Time) : State := { s with tsb := t }

/-- `BUSY' <- b`. -/
def State.setBusy (s : State) (b : Bool) : State := { s with busy := b }

/-- `POS' <- p`. -/
def State.setPos (s : State) (p : Position) : State := { s with pos := p }

/-- `DIG' <- d`. -/
def State.setDig (s : State) (d : Digit) : State := { s with dig := d }

/-- All six registers at the values of RESET_STATE (R150). -/
def State.resetRegs (s : State) : State :=
  ((((((s.setCnt 0).setTsa 0).setTsb 0).setBusy false).setPos 0).setDig 0)

/-! ## The sink and the glyph ROM -/

/-- `SinkPush(w)`: the sink receives `w` after all it received before (R47). -/
def State.sinkPush (s : State) (w : PixWord) : State := { s with sink := s.sink ++ [w] }

/-- `MemRead(GROM, a, 1)`: the cell at flat address `a` of the glyph table `g` (R41, R42). -/
def memReadGrom (g : GlyphTable) (a : Int) : Except Fault Bool :=
  if h : 0 ≤ a ∧ a ≤ 249 then
    .ok (g ⟨(a / 25).toNat, by simp only [Config.numDigits]; omega⟩
      ⟨(a % 25).toNat, by simp only [Config.numPixels]; omega⟩)
  else .error (.gromRange a)

/-! ## The ports -/

/-- What the input ports hold in the coming step: the next sample laid out, or whatever the environment presents (R31, log 2). -/
def State.nextInputs (s : State) : Inputs :=
  match s.stim with
  | [] => Config.environment s.tick
  | i :: _ => i

/-- The start of a step: the inputs are sampled, the outputs `o` are driven, and CNT is noted as it stands (R31, R51, R62). -/
def State.openStep (s : State) (o : Outputs) : State :=
  { s with inp := s.nextInputs, stim := s.stim.tail, cntPre := s.cnt, out := o }

/-- The end of a step. -/
def State.closeStep (s : State) : State := { s with tick := s.tick + 1 }

/-- The samples `ins` are laid out for the coming steps, before any that were laid out already (log 2). -/
def State.present (s : State) (ins : List Inputs) : State := { s with stim := ins ++ s.stim }

/-- A state whose next step has the decode word `d` (R60): its strobes are laid out as the next sample, at the time now at the
port, and BUSY, which is bit 0 of the word, is as the word says (log 11). -/
def State.placeWord (s : State) (d : DecodeWord) : State :=
  (s.setBusy (d.getLsbD 0)).present [Inputs.ofStrobes (d.extractLsb' 1 5) s.inp.nowUs]

end Sys2Proof.Machine
end

