-- ==== Sys2Proof/Machine/Operands.lean ====
section
/-! DEFINITION. The operand forms of the block (spec/30_encoding.md R65 to R69): positions, cell indices, flat glyph addresses,
counter arithmetic, the time operand, and a frame start's read of the counter. -/

namespace Sys2Proof.Machine

/-- `row(p) = p div 5` (R65). -/
def rowOf (p : Position) : Nat := p.toNat / Config.cols

/-- `col(p) = p mod 5` (R65). -/
def colOf (p : Position) : Nat := p.toNat % Config.cols

/-- The row-major cell index `5·row + col` (R66). -/
def cellIndex (row col : Nat) : Position := BitVec.ofNat 5 (Config.cols * row + col)

/-- The flat address `25·d + i` of cell `i` of digit `d` (R66). -/
def glyphAddress (d : Digit) (i : Position) : Int := (Config.numPixels * d.toNat + i.toNat : Nat)

/-- `(c + 1) mod 10` (R111). -/
def incDigit (c : Digit) : Digit := BitVec.ofNat 4 ((c.toNat + 1) % Config.numDigits)

/-- `(c − 1 + 10) mod 10` (R112). -/
def decDigit (c : Digit) : Digit := BitVec.ofNat 4 ((c.toNat + Config.numDigits - 1) % Config.numDigits)

/-- The operand `now_us` of the debounce operations (R60, R69). -/
def State.nowOperand (s : State) : Time := s.inp.nowUs

/-- `draw { pre, post }`, `first` choosing `pre`: where the two are equal the read is deterministic (R52). -/
def drawDigit (pre post : Digit) (first : Bool) : Digit :=
  if pre = post then post else if first then pre else post

/-- A frame start's read of CNT: the value at the start of the step or the value after the step's debounce updates (R52, R86). -/
def State.frameDigit (s : State) : Digit :=
  drawDigit s.cntPre s.cnt (Config.drawFrame s.tick s.cntPre s.cnt)

end Sys2Proof.Machine
end

