-- ==== Sys2Proof/Machine/Flags.lean ====
section
/-! DEFINITION. The block has no condition codes (spec/10_state.md R29), so there is no flag to compute. This file holds the one
condition its operations test, the debounce comparator (spec/41_debounce.md R110). -/

namespace Sys2Proof.Machine

/-- ACCEPT (R110): strictly more than DEBOUNCE_US since the last accepted edge. Where `now < last` the answer is the draw `d`. -/
def accept (now last : Nat) (d : Bool) : Bool :=
  if last ≤ now then decide (Config.debounceUs < now - last) else d

/-- Whether an edge of button A presented in this step is accepted. -/
def State.acceptsA (s : State) : Bool :=
  accept s.nowOperand.toNat s.tsa.toNat (Config.drawAcceptA s.tick s.nowOperand s.tsa)

/-- Whether an edge of button B presented in this step is accepted. -/
def State.acceptsB (s : State) : Bool :=
  accept s.nowOperand.toNat s.tsb.toNat (Config.drawAcceptB s.tick s.nowOperand s.tsb)

end Sys2Proof.Machine
end

