-- ==== Sys2Proof/Machine/Debounce.lean ====
section
/-! DEFINITION. The meanings of EDGE_A and EDGE_B (spec/41_debounce.md R111, R112). -/

namespace Sys2Proof.Machine

/-- What an edge of button A does to the state (R111). -/
def State.edgeA (s : State) : State :=
  if s.acceptsA then (s.setCnt (incDigit s.cnt)).setTsa s.nowOperand else s

/-- What an edge of button B does to the state (R112). -/
def State.edgeB (s : State) : State :=
  if s.acceptsB then (s.setCnt (decDigit s.cnt)).setTsb s.nowOperand else s

/-- EDGE_A: an accepted edge increments the counter; a rejected one changes nothing. -/
def execEdgeA (s : State) : Host.Outcome State Fault Refusal := .next s.edgeA

/-- EDGE_B: an accepted edge decrements the counter; a rejected one changes nothing. CNT is EDGE_A's result where both edges come
in one step (R113). -/
def execEdgeB (s : State) : Host.Outcome State Fault Refusal := .next s.edgeB

end Sys2Proof.Machine
end

