-- ==== Sys2Proof/Machine/Reset.lean ====
section
/-! DEFINITION. The meaning of RESET (spec/70_reset_and_hazards.md R150). -/

namespace Sys2Proof.Machine

/-- RESET: every register at its value in RESET_STATE. The sink keeps what it has received (R155) and the configuration does not
change (R37). -/
def execReset (s : State) : Host.Outcome State Fault Refusal := .next s.resetRegs

end Sys2Proof.Machine
end

