-- ==== Sys2Proof/Machine/Render.lean ====
section
/-! DEFINITION. The combinational units of the renderer (spec/40_render.md R80 to R85) and the output ports they feed
(spec/10_state.md R32). -/

namespace Sys2Proof.Machine

/-- GLYPH_LOOKUP (R80): cell `i` of digit `d` of the glyph table `g`. -/
def glyphLookup (g : GlyphTable) (d : Digit) (i : Position) : Except Fault Bool :=
  if 9 < d.toNat then .error (.digitRange d)
  else if 24 < i.toNat then .error (.posRange i)
  else memReadGrom g (glyphAddress d i)

/-- MIRROR (R81): the glyph cell shown at physical position `p`, the column reversed and the row kept. -/
def mirror (p : Position) : Except Fault Position :=
  if 24 < p.toNat then .error (.posRange p) else .ok (cellIndex (rowOf p) (4 - colOf p))

/-- The exact reference of ENC_CHANNEL, `trunc(x × 255 × 0.01)` as an 8-bit result, in exact real arithmetic (R83). -/
noncomputable def encChannelExact (x : Intensity) : Byte :=
  BitVec.ofNat 8 ⌊x.val * (Config.fullScale : ℝ) * (Config.brightness : ℝ)⌋₊

/-- The four laws of ENC_CHANNEL: 0 at 0, 2 at 1, monotone, and no value but 0, 1 and 2 (R83, D18). -/
structure LawfulEnc (f : Intensity → Byte) : Prop where
  dark : f .dark = 0
  full : f .full = 2
  mono : ∀ x y : Intensity, x.val ≤ y.val → (f x).toNat ≤ (f y).toNat
  range : ∀ x : Intensity, (f x).toNat ≤ 2

open Classical in
/-- The function `f` where it is lawful, and the exact reference where it is not: every lawful function is one of these, and
nothing else is (D18, log 8). -/
noncomputable def encFrom (f : Intensity → Byte) : Intensity → Byte := if LawfulEnc f then f else encChannelExact

/-- ENC_CHANNEL on any intensity (R83): the configuration's function (log 8). -/
noncomputable def encChannel : Intensity → Byte := encFrom Config.encFunction

/-- ENC_CHANNEL at the two intensities the renderer supplies, where every lawful function gives 0 for 0.0 and 2 for 1.0 (R83). It is
`encChannel` there, and it can be evaluated, which a function on the reals cannot (log 8). -/
def encChannelBit (bit : Bool) : Byte := if bit then Config.litByte else 0

/-- The pixel word `{G, R, B, 0x00}` (R44, R84). -/
def packWord (r g b : Byte) : PixWord := g ++ r ++ b ++ (0 : Byte)

/-- A one-bit intensity: 1 stands for 1.0 and 0 for 0.0 (R84). -/
def intensity (bit : Bool) : Intensity := if bit then .full else .dark

/-- ColorEncoder on intensities (R83, R84). -/
noncomputable def encodeIntensities (r g b : Intensity) : PixWord := packWord (encChannel r) (encChannel g) (encChannel b)

/-- ENCODE (R84): the encoder in the block's hardware form. -/
def encodeColor (r g b : Bool) : PixWord := packWord (encChannelBit r) (encChannelBit g) (encChannelBit b)

/-- PIXEL (R85): the word of digit `d` at physical position `p`. MIRROR comes before GLYPH_LOOKUP (R132). -/
def pixel (g : GlyphTable) (d : Digit) (p : Position) : Except Fault PixWord :=
  match mirror p with
  | .error f => .error f
  | .ok i =>
    match glyphLookup g d i with
    | .error f => .error f
    | .ok l => .ok (encodeColor l l l)

/-- `pix_data` (R32, R33). -/
def State.pixData (s : State) : Except Fault PixWord :=
  if s.busy then pixel Config.glyphTable s.dig s.pos else .ok 0

/-- The output ports in a step that begins in state `s` with the given `rst` (R32). Forming `pix_data` from a register out of
range is a fault (R131, log 6). -/
def State.outputs (s : State) (rst : Bool) : Except Fault Outputs :=
  match s.pixData with
  | .error f => .error f
  | .ok w => .ok { pixValid := s.busy && !rst, pixData := w, busy := s.busy, cntOut := s.cnt }

end Sys2Proof.Machine
end

