-- ==== Sys2Proof/Machine/Sequencer.lean ====
section
/-! DEFINITION. The meanings of the sequencer operations (spec/40_render.md R86 to R89 and R92). -/

namespace Sys2Proof.Machine

/-- A frame of digit `d` begins at position 0 (R86). -/
def State.startFrame (s : State) (d : Digit) : State := ((s.setBusy true).setPos 0).setDig d

/-- The position after a word has moved; after position 24 the frame is complete (R88). -/
def State.advance (s : State) : State :=
  if s.pos = 24 then (s.setBusy false).setPos 0 else s.setPos (s.pos + 1)

/-- FRAME_START: one frame begins, of the digit that CNT is read as. Reading a digit out of range is a fault (R22, R131). -/
def execFrameStart (s : State) : Host.Outcome State Fault Refusal :=
  if 9 < s.frameDigit.toNat then .fault (.digitRange s.frameDigit) else .next (s.startFrame s.frameDigit)

/-- FRAME_START_IGNORED: no effect, and the request is not remembered (R87). -/
def execFrameStartIgnored (s : State) : Host.Outcome State Fault Refusal := .next s

/-- PIXEL_TRANSFER: the sink receives the word at POS and the position advances (R88). -/
def execPixelTransfer (s : State) : Host.Outcome State Fault Refusal :=
  match pixel Config.glyphTable s.dig s.pos with
  | .error f => .fault f
  | .ok w => .next (s.sinkPush w).advance

/-- PIXEL_HOLD: the sink is not ready and the sequencer waits (R89). -/
def execPixelHold (s : State) : Host.Outcome State Fault Refusal := .next s

/-- SEQ_IDLE: no frame is in progress and none is requested (R92). -/
def execSeqIdle (s : State) : Host.Outcome State Fault Refusal := .next s

end Sys2Proof.Machine
end

