-- ==== Sys2Proof/Machine/Dispatch.lean ====
section
/-! DEFINITION. The one place where an operation meets its meaning. -/

namespace Sys2Proof.Machine

/-- What one operation does. -/
def exec (i : Instr) (s : State) : Host.Outcome State Fault Refusal :=
  match i with
  | .reset => Sys2Proof.Machine.execReset s
  | .edgeA => Sys2Proof.Machine.execEdgeA s
  | .edgeB => Sys2Proof.Machine.execEdgeB s
  | .frameStart => Sys2Proof.Machine.execFrameStart s
  | .frameStartIgnored => Sys2Proof.Machine.execFrameStartIgnored s
  | .pixelTransfer => Sys2Proof.Machine.execPixelTransfer s
  | .pixelHold => Sys2Proof.Machine.execPixelHold s
  | .seqIdle => Sys2Proof.Machine.execSeqIdle s

end Sys2Proof.Machine
end

