-- ==== Sys2Proof/Machine/ClockEdge.lean ====
section
/-! DEFINITION. One clock edge (spec/30_encoding.md R62): the outputs are formed, the decode word selects the operations, and they
are performed in order. -/

namespace Sys2Proof.Machine

/-- `f` after an outcome that is a next state; a fault or a refusal stays as it is, so that nothing follows it. -/
def andThen (r : Host.Outcome State Fault Refusal) (f : State → Host.Outcome State Fault Refusal) :
    Host.Outcome State Fault Refusal :=
  match r with
  | .next t => f t
  | .fault e => .fault e
  | .refused e => .refused e

/-- The operations of a list, one after the other, up to the first that does not answer a next state. -/
def execAll : List Instr → State → Host.Outcome State Fault Refusal
  | [], s => .next s
  | i :: rest, s => andThen (exec i s) (execAll rest)

/-- The decode word of the step that begins in state `s` (R60). -/
def State.decodeWord (s : State) : DecodeWord := Sys2Proof.decodeWord s.nextInputs s.busy

/-- One step (R62): `out <- Outputs(s, rst)`, then the selected operations, then the end of the step. -/
def clockEdge (s : State) : Host.Outcome State Fault Refusal :=
  match s.outputs s.nextInputs.rst with
  | .error f => .fault f
  | .ok o => andThen (execAll (selected s.decodeWord) (s.openStep o)) fun t => .next t.closeStep

end Sys2Proof.Machine
end

