-- ==== Sys2Proof/Machine/Step.lean ====
section
/-! DEFINITION. One step of the machine, and the placing of one decode word for the next step. -/

namespace Sys2Proof.Machine

/-- One step is one clock edge (spec/00_scope.md R5). -/
def step (s : State) : Host.Outcome State Fault Refusal := clockEdge s

/-- `s` with the decode word `w` placed so that the next step performs the operations it selects (log 11). -/
def State.withFetchWord (s : State) (_nbits w : Nat) : State := s.placeWord (BitVec.ofNat 6 w)

end Sys2Proof.Machine
end

