-- ==== Sys2Proof/Machine/Script.lean ====
section
/-! DEFINITION. Stimulus scripts, the block's assembler (spec/30_encoding.md R71 to R74): reading a script's text, expanding its
pseudo-instructions, encoding its steps, and laying its steps out as inputs of the machine. A script has no effect of its own
(D21): it only names the inputs of the coming steps. -/

namespace Sys2Proof.Machine

/-! ## Expansion (R71, R72) -/

/-- A statement as the STEPs it stands for, each given by its fields (R72). -/
def stmtSteps : Stmt → List (List Field)
  | .step fields => [fields]
  | .reset (some t) => [[.rst, .now t]]
  | .reset none => [[.rst]]
  | .pressA t => [[.now t, .a]]
  | .pressB t => [[.now t, .b]]
  | .pressAB t => [[.now t, .a, .b]]
  | .idle n => List.replicate n []
  | .stall n => List.replicate n []
  | .drain n => List.replicate n [.ready]
  | .frame => [.start] :: List.replicate 25 [.ready]

/-- The inputs with one more field named: a strobe it names is 1 (R71). -/
def withField (i : Inputs) : Field → Inputs
  | .now t => { i with nowUs := BitVec.ofNat Config.timeWidth t }
  | .rst => { i with rst := true }
  | .a => { i with edgeA := true }
  | .b => { i with edgeB := true }
  | .start => { i with frameStart := true }
  | .ready => { i with pixReady := true }

/-- The inputs of a STEP: a strobe it omits is 0, and without `now=` the time is that of the step before (R71). -/
def stepInputs (previous : Time) (fields : List Field) : Inputs :=
  fields.foldl withField
    { rst := false, nowUs := previous, edgeA := false, edgeB := false, frameStart := false, pixReady := false }

/-- The inputs of a sequence of STEPs. -/
def stepsInputs (previous : Time) : List (List Field) → List Inputs
  | [] => []
  | fields :: rest => stepInputs previous fields :: stepsInputs (stepInputs previous fields).nowUs rest

/-- The inputs of a script's statements; the time before the first of them is `previous` (R71). -/
def scriptInputs (previous : Time) (stmts : List Stmt) : List Inputs :=
  stepsInputs previous (stmts.flatMap stmtSteps)

/-- A statement of one STEP as R73 encodes it: its strobe word and its `now_us` value. -/
def encodeStep (previous : Time) (fields : List Field) : StrobeWord × Time :=
  ((stepInputs previous fields).strobes, (stepInputs previous fields).nowUs)

/-- R74: `D = (IN << 1) | BUSY`. -/
def decodeWordOfStrobes (strobes : StrobeWord) (busy : Bool) : DecodeWord :=
  (strobes.setWidth 6 <<< 1) ||| (BitVec.ofBool busy).setWidth 6

/-- The machine with a script laid out for its coming steps. -/
def State.loadScript (s : State) (stmts : List Stmt) : State := s.present (scriptInputs s.inp.nowUs stmts)

/-! ## Text (R71; what the grammar leaves open is in log 10) -/

/-- One hexadecimal digit. -/
def hexDigit (n : Nat) : Char :=
  if n < 10 then Char.ofNat (48 + n) else Char.ofNat (55 + n)

/-- The two hex digits of a strobe word (R73). -/
def strobeDigits (w : StrobeWord) : List Char := [hexDigit (w.toNat / 16), hexDigit (w.toNat % 16)]

/-- The value of a digit character; hexadecimal digits in either case. -/
def digitValue (c : Char) : Option Nat :=
  if '0'.toNat ≤ c.toNat ∧ c.toNat ≤ '9'.toNat then some (c.toNat - '0'.toNat)
  else if 'a'.toNat ≤ c.toNat ∧ c.toNat ≤ 'f'.toNat then some (c.toNat - 'a'.toNat + 10)
  else if 'A'.toNat ≤ c.toNat ∧ c.toNat ≤ 'F'.toNat then some (c.toNat - 'A'.toNat + 10)
  else none

/-- The number that digits of a base continue from `acc`. -/
def readDigits (base : Nat) : Nat → List Char → Option Nat
  | acc, [] => some acc
  | acc, c :: rest =>
    match digitValue c with
    | none => none
    | some v => if v < base then readDigits base (acc * base + v) rest else none

/-- `number := decimal digits | '0x' hex digits`. -/
def readNumber : List Char → Option Nat
  | [] => none
  | ['0', 'x'] => none
  | '0' :: 'x' :: digits => readDigits 16 0 digits
  | c :: digits => readDigits 10 0 (c :: digits)

/-- The characters that separate the words of a line. -/
def isBlank (c : Char) : Bool := c == ' ' || c == '\t' || c == '\r'

/-- The parts of a text between the characters that `cut` names; `part` is the part so far, backwards. -/
def splitBy (cut : Char → Bool) : List Char → List Char → List (List Char)
  | part, [] => [part.reverse]
  | part, c :: rest => if cut c then part.reverse :: splitBy cut [] rest else splitBy cut (c :: part) rest

/-- The words of a line. -/
def wordsOf (text : List Char) : List (List Char) := (splitBy isBlank [] text).filter fun w => !w.isEmpty

/-- A `field`. -/
def readField : List Char → Option Field
  | ['R', 'S', 'T'] => some .rst
  | ['A'] => some .a
  | ['B'] => some .b
  | ['S', 'T', 'A', 'R', 'T'] => some .start
  | ['R', 'E', 'A', 'D', 'Y'] => some .ready
  | 'n' :: 'o' :: 'w' :: '=' :: digits => (readNumber digits).map Field.now
  | _ => none

/-- The `field`s of a STEP. -/
def readFields : List (List Char) → Option (List Field)
  | [] => some []
  | w :: rest =>
    match readField w, readFields rest with
    | some f, some fs => some (f :: fs)
    | _, _ => none

/-- A statement whose first word is `key`. R72 calls the operand of IDLE, STALL and DRAIN a count and R71's grammar has no production
for one: it is read as a `number`, so that a hexadecimal count and a count of 0 are accepted (DESIGN CHOICE, log 10). -/
def readKeyword (key : List Char) (args : List (List Char)) : Option Stmt :=
  match key, args with
  | ['S', 'T', 'E', 'P'], _ => (readFields args).map Stmt.step
  | ['R', 'E', 'S', 'E', 'T'], [] => some (.reset none)
  | ['R', 'E', 'S', 'E', 'T'], ['n' :: 'o' :: 'w' :: '=' :: digits] => (readNumber digits).map fun t => .reset (some t)
  | ['P', 'R', 'E', 'S', 'S', '_', 'A'], [t] => (readNumber t).map Stmt.pressA
  | ['P', 'R', 'E', 'S', 'S', '_', 'B'], [t] => (readNumber t).map Stmt.pressB
  | ['P', 'R', 'E', 'S', 'S', '_', 'A', 'B'], [t] => (readNumber t).map Stmt.pressAB
  | ['I', 'D', 'L', 'E'], [n] => (readNumber n).map Stmt.idle
  | ['S', 'T', 'A', 'L', 'L'], [n] => (readNumber n).map Stmt.stall
  | ['D', 'R', 'A', 'I', 'N'], [n] => (readNumber n).map Stmt.drain
  | ['F', 'R', 'A', 'M', 'E'], [] => some .frame
  | _, _ => none

/-- A `stmt`, or none where there is no word. -/
def readStmt : List (List Char) → Option (Option Stmt)
  | [] => some none
  | key :: args => (readKeyword key args).map some

/-- A `line`: the comment goes, the part before a colon is the label, the rest is the statement. -/
def readLine (text : List Char) : Option Line :=
  match splitBy (· == ':') [] (text.takeWhile (· != ';')) with
  | [body] => (readStmt (wordsOf body)).map fun s => { label := none, stmt := s }
  | [name, body] =>
    match wordsOf name with
    | [label] => (readStmt (wordsOf body)).map fun s => { label := some label, stmt := s }
    | _ => none
  | _ => none

/-- Lines of a `script`, each ended by a line feed: nothing may stand after the last line feed. -/
def readLines : List (List Char) → Option (List Line)
  | [] => some []
  | [last] => if last.isEmpty then some [] else none
  | text :: rest =>
    match readLine text, readLines rest with
    | some l, some ls => some (l :: ls)
    | _, _ => none

/-- A `script`. -/
def readScript (text : List Char) : Option (List Line) := readLines (splitBy (· == '\n') [] text)

/-- The statements of a script's lines, in order. -/
def scriptStmts (lines : List Line) : List Stmt := lines.filterMap Line.stmt

end Sys2Proof.Machine
end

