-- ==== Sys2Proof/Safety.lean ====
section
/-! DEFINITION. What counts as a legal state and a safe run, and the terms in which statements speak of runs. -/

namespace Sys2Proof.Machine

/-! ## Legal states -/

/-- The legal values of the registers (spec/10_state.md R20 to R27): the digits are 0..9, the position 0..24, and the position is
0 while no frame is in progress (R25, R88). `cntPre` is CNT at the start of a step and so a digit too. -/
abbrev State.Legal (s : State) : Prop :=
  s.cnt.toNat ≤ 9 ∧ s.dig.toNat ≤ 9 ∧ s.pos.toNat ≤ 24 ∧ (s.busy = false → s.pos = 0) ∧ s.cntPre.toNat ≤ 9

/-- A word the renderer can emit (spec/40_render.md R85). -/
abbrev isFrameWord (w : PixWord) : Prop := w = 0 ∨ w = Config.litWord

/-- Every word the sink has received is one the renderer can emit. -/
abbrev State.SinkLegal (s : State) : Prop := ∀ w ∈ s.sink, isFrameWord w

/-! ## Runs -/

/-- A run of `k` steps of the machine, up to the first fault or refusal. -/
abbrev State.run (s : State) (k : Nat) : Host.Outcome State Fault Refusal := Sys2Proof.core.run k s

/-- The samples `ins` are the inputs of the next steps. -/
abbrev State.Receives (s : State) (ins : List Inputs) : Prop := ins <+: s.stim

/-- No sample asks for a reset. -/
abbrev NoReset (ins : List Inputs) : Prop := ∀ i ∈ ins, i.rst = false

/-- How many samples find the sink ready. -/
def readyCount (ins : List Inputs) : Nat := (ins.filter (·.pixReady)).length

/-- Whether the coming step accepts an edge of button A (R110, R111). -/
def State.takesA (s : State) : Bool :=
  !s.nextInputs.rst && s.nextInputs.edgeA &&
    accept s.nextInputs.nowUs.toNat s.tsa.toNat (Config.drawAcceptA s.tick s.nextInputs.nowUs s.tsa)

/-- Whether the coming step accepts an edge of button B (R110, R112). -/
def State.takesB (s : State) : Bool :=
  !s.nextInputs.rst && s.nextInputs.edgeB &&
    accept s.nextInputs.nowUs.toNat s.tsb.toNat (Config.drawAcceptB s.tick s.nextInputs.nowUs s.tsb)

/-- What `f` sees in each state that a run of `k` steps leaves by a step, in order. -/
def State.along {α : Type} (f : State → α) (s : State) : Nat → List α
  | 0 => []
  | k + 1 =>
    f s :: (match step s with
      | .next t => State.along f t k
      | .fault _ => []
      | .refused _ => [])

/-- How many A edges are accepted in the next `k` steps. -/
def State.acceptedA (s : State) (k : Nat) : Nat := ((s.along State.takesA k).filter id).length

/-- How many B edges are accepted in the next `k` steps. -/
def State.acceptedB (s : State) (k : Nat) : Nat := ((s.along State.takesB k).filter id).length

/-- The times of the A edges accepted in the next `k` steps, in order. -/
def State.acceptedTimesA (s : State) (k : Nat) : List Nat :=
  (s.along (fun t => if t.takesA then some t.nextInputs.nowUs.toNat else none) k).filterMap id

/-- The times of the B edges accepted in the next `k` steps, in order. -/
def State.acceptedTimesB (s : State) (k : Nat) : List Nat :=
  (s.along (fun t => if t.takesB then some t.nextInputs.nowUs.toNat else none) k).filterMap id

/-- The machine goes through `k` steps with neither a fault nor a refusal. -/
def State.SafeRun (s : State) (k : Nat) : Prop := ∃ t, s.run k = .next t

/-! ## The step of R62, written out in one piece -/

/-- The result of R62's second half, in a step without reset: the registers after the debounce updates and the sequencer. `o` are
the step's outputs. It is the spec's pseudocode as it stands, for comparison with `step`. -/
def nextWithoutReset (s : State) (o : Outputs) : Host.Outcome State Fault Refusal :=
  let i := s.nextInputs
  let okA := accept i.nowUs.toNat s.tsa.toNat (Config.drawAcceptA s.tick i.nowUs s.tsa)
  let okB := accept i.nowUs.toNat s.tsb.toNat (Config.drawAcceptB s.tick i.nowUs s.tsb)
  let c0 := s.cnt
  let c1 := if i.edgeA && okA then incDigit c0 else c0
  let tsa := if i.edgeA && okA then i.nowUs else s.tsa
  let c2 := if i.edgeB && okB then decDigit c1 else c1
  let tsb := if i.edgeB && okB then i.nowUs else s.tsb
  let s' := { s with cnt := c2, tsa := tsa, tsb := tsb, inp := i, out := o, cntPre := c0, stim := s.stim.tail,
                     tick := s.tick + 1 }
  if s.busy then
    if i.pixReady then
      if s.pos = 24 then .next { s' with sink := s.sink ++ [o.pixData], busy := false, pos := 0 }
      else .next { s' with sink := s.sink ++ [o.pixData], pos := s.pos + 1 }
    else .next s'
  else if i.frameStart then
    let d := drawDigit c0 c2 (Config.drawFrame s.tick c0 c2)
    if 9 < d.toNat then .fault (.digitRange d)
    else .next { s' with busy := true, pos := 0, dig := d }
  else .next s'

/-- R62: one step, written out in one piece. -/
def stepOfR62 (s : State) : Host.Outcome State Fault Refusal :=
  match s.outputs s.nextInputs.rst with
  | .error f => .fault f
  | .ok o =>
    if s.nextInputs.rst then
      .next { s with cnt := 0, tsa := 0, tsb := 0, busy := false, pos := 0, dig := 0, inp := s.nextInputs, out := o,
                     cntPre := s.cnt, stim := s.stim.tail, tick := s.tick + 1 }
    else nextWithoutReset s o

end Sys2Proof.Machine
end

