-- ==== Sys2Proof/Certificates/Slice0/Obligations.lean ====
section
/-! DEFINITION. The statements for the provers, from the numbered rules of spec/. Where a statement mentions a free value (a draw,
the environment, the glyph table), it holds for every value of it. -/

open Sys2Proof Sys2Proof.Machine

/-! ## Decoding and encoding (30_encoding) -/

/-- R63: all 64 decode words are defined. With bit 5 set only RESET is selected; without it the edges by bits 4 and 3, exactly one
sequencer operation, and FRAME_START_IGNORED in addition when bits 2 and 0 are set. No word traps in a legal state. That a word is
read from one byte, in its low six bits, is the model's choice (log 11). -/
def Obligations.EveryDecodeWordIsDefined : Prop :=
  ∀ d : DecodeWord,
    (d.getLsbD 5 = true → selected d = [.reset]) ∧
    (d.getLsbD 5 = false → selected d =
      (if d.getLsbD 4 then [.edgeA] else []) ++ (if d.getLsbD 3 then [.edgeB] else []) ++
      (if d.getLsbD 0 then
        (if d.getLsbD 2 then [.frameStartIgnored] else []) ++ [if d.getLsbD 1 then .pixelTransfer else .pixelHold]
      else [if d.getLsbD 2 then .frameStart else .seqIdle])) ∧
    decode [wordByte d] = .ok (selected d, []) ∧
    ∀ s : State, s.Legal → s.decodeWord = d → ∃ t, step s = .next t

/-- R61: an operation is selected exactly when `(D & mask) = match` for its row, with the numbers of the table. -/
def Obligations.SelectionFollowsMaskAndMatch : Prop :=
  ∀ d : DecodeWord,
    (Instr.reset ∈ selected d ↔ d &&& 0x20 = 0x20) ∧ (Instr.edgeA ∈ selected d ↔ d &&& 0x30 = 0x10) ∧
    (Instr.edgeB ∈ selected d ↔ d &&& 0x28 = 0x08) ∧ (Instr.frameStart ∈ selected d ↔ d &&& 0x25 = 0x04) ∧
    (Instr.frameStartIgnored ∈ selected d ↔ d &&& 0x25 = 0x05) ∧
    (Instr.pixelTransfer ∈ selected d ↔ d &&& 0x23 = 0x03) ∧ (Instr.pixelHold ∈ selected d ↔ d &&& 0x23 = 0x01) ∧
    (Instr.seqIdle ∈ selected d ↔ d &&& 0x25 = 0x00)

/-- R61: whatever the don't-care bits, the encoded word of an operation decodes to a set with that operation in it and keeps those
bits; a word that selects an operation is an encoding of it. The byte layout is the model's choice (log 11). -/
def Obligations.EncodedOperationDecodesToItself : Prop :=
  (∀ (i : Instr) (fill : DecodeWord) (rest : List Byte), ∃ ops,
    decode (wordByte (encode i fill) :: rest) = .ok (ops, rest) ∧ i ∈ ops ∧
    encode i fill &&& ~~~i.mask = fill &&& ~~~i.mask) ∧
  ∀ (i : Instr) (d : DecodeWord), i ∈ selected d → encode i d = d

/-- R63: a list of operations is what some decode word selects exactly when it is well formed, and then its own encoding decodes
to it, with the bytes that follow left over. The byte layout is the model's choice (log 11). -/
def Obligations.WellFormedSetsAreTheDecodedOnes : Prop :=
  (∀ (ops : List Instr) (rest : List Byte), Instr.wellFormedSet ops = true →
    decode (wordByte (encodeSet ops) :: rest) = .ok (ops, rest)) ∧
  ∀ (b : Byte) (rest rest' : List Byte) (ops : List Instr), decode (b :: rest) = .ok (ops, rest') →
    Instr.wellFormedSet ops = true ∧ rest' = rest

/-- The decoder refuses by name (log 11): no byte, or a byte whose bits 7 or 6 are set. It refuses nothing else. -/
def Obligations.DecoderRefusesByName : Prop :=
  decode [] = .error .noByte ∧
  ∀ (b : Byte) (rest : List Byte),
    ((b.getLsbD 7 = true ∨ b.getLsbD 6 = true) → decode (b :: rest) = .error (.highBits b)) ∧
    ((b.getLsbD 7 = false ∧ b.getLsbD 6 = false) → ∃ ops, decode (b :: rest) = .ok (ops, rest))

/-- Words of the opcode table decode to their rows' operations: one word for each row. A word is read from one byte, and the answer
is the first of the operations it selects, in the table's order (0x10 selects SEQ_IDLE beside EDGE_A): both are the model's choice
(log 11). -/
def Obligations.TableWordsDecodeRight : Prop :=
  decodeTableWord 8 0x20 = some .reset ∧ decodeTableWord 8 0x10 = some .edgeA ∧ decodeTableWord 8 0x08 = some .edgeB ∧
  decodeTableWord 8 0x04 = some .frameStart ∧ decodeTableWord 8 0x05 = some .frameStartIgnored ∧
  decodeTableWord 8 0x03 = some .pixelTransfer ∧ decodeTableWord 8 0x01 = some .pixelHold ∧
  decodeTableWord 8 0x00 = some .seqIdle

/-- R74 and R73: `D = (IN << 1) | BUSY`, each strobe at its bit of IN, and IN gives the strobes back. -/
def Obligations.DecodeWordIsStrobesAndBusy : Prop :=
  ∀ (i : Inputs) (busy : Bool),
    decodeWordOfStrobes i.strobes busy = decodeWord i busy ∧
    i.strobes = (if i.rst then 0x10 else 0) ||| (if i.edgeA then 0x08 else 0) ||| (if i.edgeB then 0x04 else 0) |||
      (if i.frameStart then 0x02 else 0) ||| (if i.pixReady then 0x01 else 0) ∧
    Inputs.ofStrobes i.strobes i.nowUs = i

/-- R60: the six bits of the decode word of the step that begins in `s`. -/
def Obligations.DecodeWordBits : Prop :=
  ∀ s : State,
    s.decodeWord.getLsbD 5 = s.nextInputs.rst ∧ s.decodeWord.getLsbD 4 = s.nextInputs.edgeA ∧
    s.decodeWord.getLsbD 3 = s.nextInputs.edgeB ∧ s.decodeWord.getLsbD 2 = s.nextInputs.frameStart ∧
    s.decodeWord.getLsbD 1 = s.nextInputs.pixReady ∧ s.decodeWord.getLsbD 0 = s.busy

/-- R71: in a STEP a strobe named is 1 and a strobe omitted is 0; without `now=` the time is the one before, with one `now=` it is
the time named, if that fits in TIME_WIDTH bits. Of a time that does not fit the low bits are taken, which is the model's choice
(log 10). -/
def Obligations.StepStatementInputs : Prop :=
  ∀ (previous : Time) (fields : List Field),
    ((stepInputs previous fields).rst = true ↔ Field.rst ∈ fields) ∧
    ((stepInputs previous fields).edgeA = true ↔ Field.a ∈ fields) ∧
    ((stepInputs previous fields).edgeB = true ↔ Field.b ∈ fields) ∧
    ((stepInputs previous fields).frameStart = true ↔ Field.start ∈ fields) ∧
    ((stepInputs previous fields).pixReady = true ↔ Field.ready ∈ fields) ∧
    (Stmt.times fields = [] → (stepInputs previous fields).nowUs = previous) ∧
    ∀ t, Stmt.times fields = [t] →
      (t < 2 ^ Config.timeWidth → (stepInputs previous fields).nowUs.toNat = t) ∧
      (stepInputs previous fields).nowUs = BitVec.ofNat Config.timeWidth t

/-- R72: every pseudo-instruction gives the inputs of its expansion into STEPs, whatever statements follow it. The last two clauses
say what the inputs of STEPs are: one sample for each STEP, the time of the one before kept for the next (R71). -/
def Obligations.PseudoInstructionExpansions : Prop :=
  ∀ (previous : Time) (t n : Nat) (rest : List Stmt),
    scriptInputs previous (.reset none :: rest) = scriptInputs previous (.step [.rst] :: rest) ∧
    scriptInputs previous (.reset (some t) :: rest) = scriptInputs previous (.step [.rst, .now t] :: rest) ∧
    scriptInputs previous (.pressA t :: rest) = scriptInputs previous (.step [.now t, .a] :: rest) ∧
    scriptInputs previous (.pressB t :: rest) = scriptInputs previous (.step [.now t, .b] :: rest) ∧
    scriptInputs previous (.pressAB t :: rest) = scriptInputs previous (.step [.now t, .a, .b] :: rest) ∧
    scriptInputs previous (.idle n :: rest) = scriptInputs previous (List.replicate n (.step []) ++ rest) ∧
    scriptInputs previous (.stall n :: rest) = scriptInputs previous (List.replicate n (.step []) ++ rest) ∧
    scriptInputs previous (.drain n :: rest) = scriptInputs previous (List.replicate n (.step [.ready]) ++ rest) ∧
    scriptInputs previous (.frame :: rest) = scriptInputs previous (.step [.start] :: .drain 25 :: rest) ∧
    (∀ fields, scriptInputs previous (.step fields :: rest) =
      stepInputs previous fields :: scriptInputs (stepInputs previous fields).nowUs rest) ∧
    scriptInputs previous [] = []

/-- R71: a script drives the block one step per STEP. Loading it lays its inputs out in order, before any that were laid out, and
changes nothing else; from State.reset the time before the first step is 0. The machine then reaches each of its steps, with the
inputs of that STEP at the ports. That inputs are laid out in the state is the model's form (log 2). -/
def Obligations.LoadedScriptDrivesTheSteps : Prop :=
  (∀ (s : State) (stmts : List Stmt),
    s.loadScript stmts = { s with stim := scriptInputs s.inp.nowUs stmts ++ s.stim }) ∧
  (∀ stmts : List Stmt, State.reset.loadScript stmts = { State.reset with stim := scriptInputs 0 stmts }) ∧
  ∀ (s : State) (stmts : List Stmt), s.Legal → ∀ (k : Nat) (hk : k < (scriptInputs s.inp.nowUs stmts).length),
    ∃ t, (s.loadScript stmts).run k = .next t ∧ t.nextInputs = (scriptInputs s.inp.nowUs stmts)[k]

/-! ## The step (30_encoding R62) -/

/-- A step performs the operations its decode word selects, in order, between the sampling of the ports and the end of the step;
where the word selects one operation alone, the step is `exec` of that operation. Where the outputs cannot be formed it faults
(log 6). That the word is read from one byte, in its low six bits, is the model's choice (log 11). -/
def Obligations.StepPerformsTheDecodedOperations : Prop :=
  ∀ s : State,
    (∀ f, s.outputs s.nextInputs.rst = .error f → step s = .fault f) ∧
    ∀ o, s.outputs s.nextInputs.rst = .ok o →
      decode [wordByte s.decodeWord] = .ok (selected s.decodeWord, []) ∧
      (∀ t, execAll (selected s.decodeWord) (s.openStep o) = .next t → step s = .next t.closeStep) ∧
      (∀ f, execAll (selected s.decodeWord) (s.openStep o) = .fault f → step s = .fault f) ∧
      ∀ i, selected s.decodeWord = [i] →
        (∀ t, exec i (s.openStep o) = .next t → step s = .next t.closeStep) ∧
        ∀ f, exec i (s.openStep o) = .fault f → step s = .fault f

/-- Placing a word makes it the decode word of the next step, and changes only BUSY, which is bit 0 of the word, and the inputs
laid out (log 11). -/
def Obligations.PlacedWordIsTheNextDecodeWord : Prop :=
  ∀ (s : State) (nbits w : Nat), w < 64 →
    (s.withFetchWord nbits w).decodeWord = BitVec.ofNat 6 w ∧
    (s.withFetchWord nbits w).nextInputs.nowUs = s.inp.nowUs ∧
    { s.withFetchWord nbits w with busy := s.busy, stim := s.stim } = s ∧
    (s.withFetchWord nbits w).stim.tail = s.stim

/-- R62: one step is the spec's pseudocode, in every state: `stepOfR62` of Sys2Proof/Safety.lean is that pseudocode written out in
one piece, with its draws as the free values of log 3 and its faults as in R131 (log 6). -/
def Obligations.StepIsThePseudocodeOfR62 : Prop :=
  ∀ s : State, step s = stepOfR62 s

/-! ## Reset (70_reset_and_hazards) -/

/-- R150: RESET completes in every state, with the six registers at 0 and everything else as it was. -/
def Obligations.ResetCompletes : Prop :=
  ∀ s : State, exec .reset s =
    .next { s with cnt := 0, tsa := 0, tsb := 0, busy := false, pos := 0, dig := 0 }

/-- R150, R135: in a step with `rst = 1` only the reset takes effect, whatever the other strobes: the six registers are 0, no word
is offered and the sink receives nothing. -/
def Obligations.ResetDominatesTheStep : Prop :=
  ∀ (s : State) (o : Outputs), s.nextInputs.rst = true → s.outputs true = .ok o →
    ∃ t, step s = .next t ∧
      t.cnt = 0 ∧ t.tsa = 0 ∧ t.tsb = 0 ∧ t.busy = false ∧ t.pos = 0 ∧ t.dig = 0 ∧
      t.out = o ∧ o.pixValid = false ∧ t.sink = s.sink

/-- R36: after a reset the outputs are `pix_valid = 0`, `pix_data = 0`, `busy = 0`, `cnt_out = 0`; in the state a run starts in,
and after every step that resets. -/
def Obligations.OutputsAfterReset : Prop :=
  ∀ rst : Bool,
    State.reset.outputs rst = .ok { pixValid := false, pixData := 0, busy := false, cntOut := 0 } ∧
    ∀ s t : State, s.nextInputs.rst = true → step s = .next t →
      t.outputs rst = .ok { pixValid := false, pixData := 0, busy := false, cntOut := 0 }

/-- The registers of RESET_STATE (R150, R151). -/
def Obligations.ResetStateRegisters : Prop :=
  State.reset.cnt = 0 ∧ State.reset.tsa = 0 ∧ State.reset.tsb = 0 ∧ State.reset.busy = false ∧
  State.reset.pos = 0 ∧ State.reset.dig = 0

/-! ## Debounce (41_debounce) -/

/-- R110: the comparator is strict where the time has not gone back, and is the draw where it has. -/
def Obligations.ComparatorIsStrict : Prop :=
  ∀ (now last : Nat) (d : Bool),
    (last ≤ now → (accept now last d = true ↔ now - last > 200000)) ∧
    (now < last → accept now last d = d) ∧
    accept (last + 200000) last d = false ∧ accept (last + 200001) last d = true ∧ accept last last d = false

/-- R111: EDGE_A completes in every state; an accepted edge increments CNT mod 10 and takes the time, a rejected one changes
nothing. It is the first operation of its step, so it reads CNT as at the start of the step. -/
def Obligations.EdgeACompletes : Prop :=
  (∀ s : State, exec .edgeA s = .next
    (if accept s.inp.nowUs.toNat s.tsa.toNat (Config.drawAcceptA s.tick s.inp.nowUs s.tsa) then
      { s with cnt := BitVec.ofNat 4 ((s.cnt.toNat + 1) % 10), tsa := s.inp.nowUs }
    else s)) ∧
  ∀ s : State, Instr.edgeA ∈ selected s.decodeWord →
    ∃ rest, selected s.decodeWord = .edgeA :: rest ∧ ∀ o, (s.openStep o).cnt = s.cnt

/-- R112: EDGE_B completes in every state; an accepted edge decrements CNT mod 10 and takes the time, a rejected one changes
nothing. Only an EDGE_A of the same step is performed before it, so its CNT is EDGE_A's result there. -/
def Obligations.EdgeBCompletes : Prop :=
  (∀ s : State, exec .edgeB s = .next
    (if accept s.inp.nowUs.toNat s.tsb.toNat (Config.drawAcceptB s.tick s.inp.nowUs s.tsb) then
      { s with cnt := BitVec.ofNat 4 ((s.cnt.toNat + 10 - 1) % 10), tsb := s.inp.nowUs }
    else s)) ∧
  ∀ s : State, Instr.edgeB ∈ selected s.decodeWord →
    ∃ rest, selected s.decodeWord = (if s.nextInputs.edgeA then [.edgeA] else []) ++ .edgeB :: rest

/-- R113: two edges in one step are performed A before B and commute, in the whole state. Both accepted leave CNT; one accepted
moves it by one in its own direction; each timestamp follows its own acceptance. -/
def Obligations.EdgesOfOneStepCommute : Prop :=
  (∀ s : State, s.nextInputs.rst = false → s.nextInputs.edgeA = true → s.nextInputs.edgeB = true →
    ∃ rest, selected s.decodeWord = .edgeA :: .edgeB :: rest) ∧
  ∀ s : State,
    execAll [.edgeA, .edgeB] s = execAll [.edgeB, .edgeA] s ∧
    (s.cnt.toNat ≤ 9 → ∃ t, execAll [.edgeA, .edgeB] s = .next t ∧
      t.tsa = (if s.acceptsA then s.inp.nowUs else s.tsa) ∧ t.tsb = (if s.acceptsB then s.inp.nowUs else s.tsb) ∧
      t.cnt.toNat = (s.cnt.toNat + (if s.acceptsA then 1 else 0) + (if s.acceptsB then 9 else 0)) % 10 ∧
      (s.acceptsA = s.acceptsB → t.cnt = s.cnt))

/-- R114: over any run without reset, CNT moves by the number of accepted A edges up and of accepted B edges down, mod 10, and
never leaves 0..9. -/
def Obligations.CounterCountsAcceptedEdges : Prop :=
  ∀ (s : State) (ins : List Inputs), s.Legal → s.Receives ins → NoReset ins →
    ∃ t, s.run ins.length = .next t ∧
      (let a := s.acceptedA ins.length
       let b := s.acceptedB ins.length
       t.cnt.toNat = (s.cnt.toNat + a + 9 * b) % 10 ∧ t.cnt.toNat ≤ 9 ∧
       (b = 0 → t.cnt.toNat = (s.cnt.toNat + a) % 10) ∧
       (a = 0 → t.cnt.toNat = (s.cnt.toNat + 10 - b % 10) % 10) ∧
       (s.cnt = 0 → b = 0 → t.cnt.toNat = a % 10) ∧
       (s.cnt = 0 → a = 0 → t.cnt.toNat = (10 - b % 10) % 10))

/-- R115: over a run without reset whose A edges have non-decreasing times, none of them before TSA, consecutive accepted A edges
differ by more than 200000, TSA ends as the time of the last accepted one, and on the way an A edge within 200000 of TSA, the last
accepted time, is dropped. The same holds for B. And in one step, from every legal state with the timestamp not past `now_us`, an
edge is accepted exactly when it is more than 200000 past the timestamp, which then takes its time (R110, R117). -/
def Obligations.DebounceLaw : Prop :=
  (∀ (s : State) (ins : List Inputs), s.Legal → s.Receives ins → NoReset ins →
    (ins.filter (·.edgeA)).Pairwise (fun i j => i.nowUs.toNat ≤ j.nowUs.toNat) →
    (∀ i ∈ ins, i.edgeA = true → s.tsa.toNat ≤ i.nowUs.toNat) →
    (∃ t, s.run ins.length = .next t ∧
      (s.tsa.toNat :: s.acceptedTimesA ins.length).IsChain (fun x y => y - x > 200000) ∧
      (s.tsa.toNat :: s.acceptedTimesA ins.length).getLast? = some t.tsa.toNat) ∧
    ∀ k u, k < ins.length → s.run k = .next u → u.nextInputs.edgeA = true →
      u.nextInputs.nowUs.toNat ≤ u.tsa.toNat + 200000 →
      u.takesA = false ∧ ∃ v, step u = .next v ∧ v.tsa = u.tsa) ∧
  (∀ (s : State) (ins : List Inputs), s.Legal → s.Receives ins → NoReset ins →
    (ins.filter (·.edgeB)).Pairwise (fun i j => i.nowUs.toNat ≤ j.nowUs.toNat) →
    (∀ i ∈ ins, i.edgeB = true → s.tsb.toNat ≤ i.nowUs.toNat) →
    (∃ t, s.run ins.length = .next t ∧
      (s.tsb.toNat :: s.acceptedTimesB ins.length).IsChain (fun x y => y - x > 200000) ∧
      (s.tsb.toNat :: s.acceptedTimesB ins.length).getLast? = some t.tsb.toNat) ∧
    ∀ k u, k < ins.length → s.run k = .next u → u.nextInputs.edgeB = true →
      u.nextInputs.nowUs.toNat ≤ u.tsb.toNat + 200000 →
      u.takesB = false ∧ ∃ v, step u = .next v ∧ v.tsb = u.tsb) ∧
  (∀ s : State, s.Legal → s.nextInputs.rst = false → s.nextInputs.edgeA = true → s.tsa.toNat ≤ s.nextInputs.nowUs.toNat →
    (s.takesA = true ↔ s.nextInputs.nowUs.toNat - s.tsa.toNat > 200000) ∧
    ∃ t, step s = .next t ∧
      t.tsa = if s.nextInputs.nowUs.toNat - s.tsa.toNat > 200000 then s.nextInputs.nowUs else s.tsa) ∧
  ∀ s : State, s.Legal → s.nextInputs.rst = false → s.nextInputs.edgeB = true → s.tsb.toNat ≤ s.nextInputs.nowUs.toNat →
    (s.takesB = true ↔ s.nextInputs.nowUs.toNat - s.tsb.toNat > 200000) ∧
    ∃ t, step s = .next t ∧
      t.tsb = if s.nextInputs.nowUs.toNat - s.tsb.toNat > 200000 then s.nextInputs.nowUs else s.tsb

/-- R117: only the last accepted edge counts. Over a run without reset in which each A edge is more than 200000 after the A edge
before it, and the first of them more than 200000 after TSA, every one is accepted, and TSA ends as the time of the last. The same
holds for B. -/
def Obligations.SpacedTrainIsAccepted : Prop :=
  ∀ (s : State) (ins : List Inputs), s.Legal → s.Receives ins → NoReset ins →
    ((s.tsa.toNat :: (ins.filter (·.edgeA)).map (·.nowUs.toNat)).IsChain (fun x y => x + 200000 < y) →
      s.acceptedTimesA ins.length = (ins.filter (·.edgeA)).map (·.nowUs.toNat) ∧
      ∃ t, s.run ins.length = .next t ∧
        (s.tsa.toNat :: (ins.filter (·.edgeA)).map (·.nowUs.toNat)).getLast? = some t.tsa.toNat) ∧
    ((s.tsb.toNat :: (ins.filter (·.edgeB)).map (·.nowUs.toNat)).IsChain (fun x y => x + 200000 < y) →
      s.acceptedTimesB ins.length = (ins.filter (·.edgeB)).map (·.nowUs.toNat) ∧
      ∃ t, s.run ins.length = .next t ∧
        (s.tsb.toNat :: (ins.filter (·.edgeB)).map (·.nowUs.toNat)).getLast? = some t.tsb.toNat)

/-- R115, R117: a bounce train of any length on a button, every edge of it no earlier than the button's timestamp and at most 200000
after it, leaves the timestamp as it was. CNT stays as it was where the edges of each button are such a train or there are none, so
too where only one button has edges. -/
def Obligations.BounceTrainIsDropped : Prop :=
  ∀ (s : State) (ins : List Inputs), s.Legal → s.Receives ins → NoReset ins →
    ∃ t, s.run ins.length = .next t ∧
      ((∀ i ∈ ins, i.edgeA = true → s.tsa.toNat ≤ i.nowUs.toNat ∧ i.nowUs.toNat ≤ s.tsa.toNat + 200000) →
        t.tsa = s.tsa ∧ ((∀ i ∈ ins, i.edgeB = false) → t.cnt = s.cnt)) ∧
      ((∀ i ∈ ins, i.edgeB = true → s.tsb.toNat ≤ i.nowUs.toNat ∧ i.nowUs.toNat ≤ s.tsb.toNat + 200000) →
        t.tsb = s.tsb ∧ ((∀ i ∈ ins, i.edgeA = false) → t.cnt = s.cnt)) ∧
      ((∀ i ∈ ins, i.edgeA = true → s.tsa.toNat ≤ i.nowUs.toNat ∧ i.nowUs.toNat ≤ s.tsa.toNat + 200000) →
        (∀ i ∈ ins, i.edgeB = true → s.tsb.toNat ≤ i.nowUs.toNat ∧ i.nowUs.toNat ≤ s.tsb.toNat + 200000) →
        t.cnt = s.cnt)

/-- R116: with the timestamps at their reset value the first edge on a button is accepted exactly when its time is past 200000; a
rejected one leaves the timestamp at 0. -/
def Obligations.FirstEdgeAfterReset : Prop :=
  State.reset.tsa = 0 ∧ State.reset.tsb = 0 ∧
  (∀ s t : State, s.nextInputs.rst = true → step s = .next t → t.tsa = 0 ∧ t.tsb = 0) ∧
  ∀ s : State, s.Legal → s.nextInputs.rst = false →
    ∃ t, step s = .next t ∧
      (s.tsa = 0 → s.nextInputs.edgeA = false → t.tsa = 0) ∧
      (s.tsb = 0 → s.nextInputs.edgeB = false → t.tsb = 0) ∧
      (s.tsa = 0 → s.nextInputs.edgeA = true →
        t.tsa = (if s.nextInputs.nowUs.toNat > 200000 then s.nextInputs.nowUs else 0) ∧
        (s.nextInputs.edgeB = false →
          t.cnt.toNat = if s.nextInputs.nowUs.toNat > 200000 then (s.cnt.toNat + 1) % 10 else s.cnt.toNat)) ∧
      (s.tsb = 0 → s.nextInputs.edgeB = true →
        t.tsb = (if s.nextInputs.nowUs.toNat > 200000 then s.nextInputs.nowUs else 0) ∧
        (s.nextInputs.edgeA = false →
          t.cnt.toNat = if s.nextInputs.nowUs.toNat > 200000 then (s.cnt.toNat + 9) % 10 else s.cnt.toNat))

/-- R157, R110: an edge whose time is before the timestamp, after a clock wrap, is accepted in full exactly when the draw is true, and
dropped with no effect exactly when it is false. The draw is a free value of the step's number, `now_us` and the timestamp, which is
the model's form of it (log 3). -/
def Obligations.ClockWrapHasTwoOutcomes : Prop :=
  ∀ s : State,
    (s.inp.nowUs.toNat < s.tsa.toNat →
      (exec .edgeA s = .next { s with cnt := incDigit s.cnt, tsa := s.inp.nowUs } ↔
        Config.drawAcceptA s.tick s.inp.nowUs s.tsa = true) ∧
      (exec .edgeA s = .next s ↔ Config.drawAcceptA s.tick s.inp.nowUs s.tsa = false)) ∧
    (s.inp.nowUs.toNat < s.tsb.toNat →
      (exec .edgeB s = .next { s with cnt := decDigit s.cnt, tsb := s.inp.nowUs } ↔
        Config.drawAcceptB s.tick s.inp.nowUs s.tsb = true) ∧
      (exec .edgeB s = .next s ↔ Config.drawAcceptB s.tick s.inp.nowUs s.tsb = false))

/-- R62, R111, R112: what a step does to CNT, TSA and TSB does not depend on the sequencer, stalled or not (R89, R136): two steps that
agree on them, on the inputs and on the number of the step, agree on them afterwards. The number of the step fixes the draws, which
is the model's own (log 3). -/
def Obligations.DebounceIgnoresTheSequencer : Prop :=
  ∀ s s' t t' : State, s.cnt = s'.cnt → s.tsa = s'.tsa → s.tsb = s'.tsb → s.nextInputs = s'.nextInputs →
    s.tick = s'.tick → step s = .next t → step s' = .next t' → t.cnt = t'.cnt ∧ t.tsa = t'.tsa ∧ t.tsb = t'.tsb

/-! ## The renderer's units (40_render, 20_memory) -/

/-- R42: a read of the glyph ROM inside 0..249 gives the cell, outside it faults with the address, and no glyph lookup reads
outside: GROM_RANGE is unreachable. -/
def Obligations.GlyphRomRead : Prop :=
  (∀ (g : GlyphTable) (d : Fin 10) (i : Fin 25), memReadGrom g (25 * (d.val : Int) + (i.val : Int)) = .ok (g d i)) ∧
  (∀ (g : GlyphTable) (a : Int), 0 ≤ a → a ≤ 249 →
    ∃ (d : Fin 10) (i : Fin 25), (d.val : Int) = a / 25 ∧ (i.val : Int) = a % 25 ∧ memReadGrom g a = .ok (g d i)) ∧
  (∀ (g : GlyphTable) (a : Int), a < 0 ∨ a > 249 → memReadGrom g a = .error (.gromRange a)) ∧
  ∀ (g : GlyphTable) (d : Digit) (i : Position) (a : Int), glyphLookup g d i ≠ .error (.gromRange a)

/-- R80: GLYPH_LOOKUP gives the cell of a legal digit and index, and otherwise the fault, DIGIT_RANGE before POS_RANGE. -/
def Obligations.GlyphLookupResult : Prop :=
  ∀ (g : GlyphTable) (d : Digit) (i : Position),
    (∀ (hd : d.toNat < 10) (hi : i.toNat < 25), glyphLookup g d i = .ok (g ⟨d.toNat, hd⟩ ⟨i.toNat, hi⟩)) ∧
    (9 < d.toNat → glyphLookup g d i = .error (.digitRange d)) ∧
    (d.toNat ≤ 9 → 24 < i.toNat → glyphLookup g d i = .error (.posRange i))

/-- R81: MIRROR reverses the column and keeps the row, and faults for a position past 24. -/
def Obligations.MirrorReversesColumns : Prop :=
  ∀ p : Position,
    (p.toNat ≤ 24 → mirror p = .ok (BitVec.ofNat 5 (5 * (p.toNat / 5) + (4 - p.toNat % 5)))) ∧
    (24 < p.toNat → mirror p = .error (.posRange p))

/-- R82: MIRROR is an involution and a bijection on 0..24 and maps each row onto itself. -/
def Obligations.MirrorIsAnInvolution : Prop :=
  (∀ p : Position, p.toNat ≤ 24 →
    ∃ q, mirror p = .ok q ∧ q.toNat ≤ 24 ∧ mirror q = .ok p ∧ q.toNat / 5 = p.toNat / 5) ∧
  (∀ q : Position, q.toNat ≤ 24 → ∃ p, p.toNat ≤ 24 ∧ mirror p = .ok q ∧ p.toNat / 5 = q.toNat / 5) ∧
  ∀ p p' q : Position, mirror p = .ok q → mirror p' = .ok q → p = p'

/-- R83, D18: ENC_CHANNEL and its exact reference both give 0 for 0 and 2 for 1, are monotone, and give 0, 1 or 2, on the reals in
[0, 1]. ENC_CHANNEL is otherwise open: every function under these laws is the one that some configuration gives (the form in which
it is configured is log 8). The reference is the greatest whole number not above `x × 255 × 0.01`. -/
def Obligations.EncChannelLaws : Prop :=
  encChannel .dark = 0 ∧ encChannel .full = 2 ∧
  (∀ x y : Intensity, x.val ≤ y.val → (encChannel x).toNat ≤ (encChannel y).toNat) ∧
  (∀ x : Intensity, (encChannel x).toNat ≤ 2) ∧
  encChannelExact .dark = 0 ∧ encChannelExact .full = 2 ∧
  (∀ x y : Intensity, x.val ≤ y.val → (encChannelExact x).toNat ≤ (encChannelExact y).toNat) ∧
  (∀ x : Intensity, (encChannelExact x).toNat ≤ 2) ∧
  (∀ (x : Intensity) (n : Nat), (encChannelExact x).toNat = n ↔ (n : ℝ) ≤ x.val * 255 * 0.01 ∧ x.val * 255 * 0.01 < n + 1) ∧
  encChannel = encFrom Config.encFunction ∧
  ∀ f : Intensity → Byte, f .dark = 0 → f .full = 2 →
    (∀ x y : Intensity, x.val ≤ y.val → (f x).toNat ≤ (f y).toNat) → (∀ x : Intensity, (f x).toNat ≤ 2) → encFrom f = f

/-- R84: ENCODE is ENC_CHANNEL of each one-bit intensity, 1 standing for 1.0 and 0 for 0.0, with the green byte in bits 31..24, red in
23..16, blue in 15..8, each 2 or 0, and 0 in bits 7..0. -/
def Obligations.EncodePlacesChannels : Prop :=
  ∀ r g b : Bool,
    encodeColor r g b =
      encChannel (if g then .full else .dark) ++ encChannel (if r then .full else .dark) ++
        encChannel (if b then .full else .dark) ++ (0 : Byte) ∧
    (encodeColor r g b).extractLsb' 24 8 = (if g then 2 else 0) ∧
    (encodeColor r g b).extractLsb' 16 8 = (if r then 2 else 0) ∧
    (encodeColor r g b).extractLsb' 8 8 = (if b then 2 else 0) ∧
    (encodeColor r g b).extractLsb' 0 8 = 0 ∧
    (encodeColor r g b).extractLsb' 26 6 = 0 ∧ (encodeColor r g b).extractLsb' 18 6 = 0 ∧
    (encodeColor r g b).extractLsb' 10 6 = 0 ∧
    encodeColor false false false = 0 ∧ encodeColor true true true = 0x02020200

/-- R85: PIXEL is LIT_WORD where the mirrored cell is lit and 0 where it is not; the position is checked before the digit. -/
def Obligations.PixelWord : Prop :=
  ∀ (g : GlyphTable) (d : Digit) (p : Position),
    (∀ (hd : d.toNat < 10) (_ : p.toNat < 25) (hm : 5 * (p.toNat / 5) + (4 - p.toNat % 5) < 25),
      pixel g d p = .ok (if g ⟨d.toNat, hd⟩ ⟨5 * (p.toNat / 5) + (4 - p.toNat % 5), hm⟩ then 0x02020200 else 0)) ∧
    (24 < p.toNat → pixel g d p = .error (.posRange p)) ∧
    (p.toNat ≤ 24 → 9 < d.toNat → pixel g d p = .error (.digitRange d))

/-- R7: TIME_WIDTH is at least 18, so that 200001 fits in a timestamp, and a smaller width is refused. That no smaller one can be
configured is how the model refuses it (log 1). -/
def Obligations.TimeWidthHoldsTheWindow : Prop :=
  18 ≤ Config.timeWidth ∧ Config.debounceUs + 1 < 2 ^ Config.timeWidth ∧
  ∀ w, (w < 18 → Config.admitsTimeWidth w = false) ∧ (18 ≤ w → Config.admitsTimeWidth w = true ∧ 200001 < 2 ^ w)

/-! ## The sequencer (40_render) -/

/-- R86, R52: FRAME_START completes when the digits it may read are legal: BUSY 1, POS 0, DIG the value of CNT before or after the
step's debounce updates, and nothing else. -/
def Obligations.FrameStartCompletes : Prop :=
  ∀ s : State, s.cntPre.toNat ≤ 9 → s.cnt.toNat ≤ 9 →
    ∃ d, (d = s.cntPre ∨ d = s.cnt) ∧ exec .frameStart s = .next { s with busy := true, pos := 0, dig := d }

/-- R22, R131: FRAME_START faults when the digit it reads is 10..15, and records it. -/
def Obligations.FrameStartFaultsOnIllegalCounter : Prop :=
  ∀ s : State, s.cntPre = s.cnt → 9 < s.cnt.toNat → exec .frameStart s = .fault (.digitRange s.cnt)

/-- R52: a step that takes a frame start latches CNT as before the step or as after it, and no other value; when no debounce
operation updates CNT the two are equal. -/
def Obligations.CounterReadIsNotTorn : Prop :=
  ∀ s : State, s.Legal → s.busy = false → s.nextInputs.rst = false → s.nextInputs.frameStart = true →
    ∃ t, step s = .next t ∧ t.busy = true ∧ t.pos = 0 ∧
      t.dig = (if s.cnt = t.cnt then t.cnt else if Config.drawFrame s.tick s.cnt t.cnt then s.cnt else t.cnt) ∧
      (s.takesA = false → s.takesB = false → t.cnt = s.cnt ∧ t.dig = s.cnt)

/-- R87, R89, R92: FRAME_START_IGNORED, PIXEL_HOLD and SEQ_IDLE complete in every state and change nothing. -/
def Obligations.IdleOperationsComplete : Prop :=
  ∀ s : State, exec .frameStartIgnored s = .next s ∧ exec .pixelHold s = .next s ∧ exec .seqIdle s = .next s

/-- R87: while a frame is in progress a frame request has no effect, in the last transfer's step too: the step with the request
and the step without it end in the same state but for the record of the ports. The two steps have the same number and operands and so
draw alike, which is the model's own (log 3). -/
def Obligations.RequestWhileBusyIsIgnored : Prop :=
  ∀ (s : State) (i : Inputs) (rest : List Inputs), s.Legal → s.busy = true →
    ∃ t u, step { s with stim := { i with frameStart := true } :: rest } = .next t ∧
      step { s with stim := { i with frameStart := false } :: rest } = .next u ∧ { t with inp := u.inp } = u

/-- R88: PIXEL_TRANSFER completes for a legal DIG and POS: the sink receives PIXEL(DIG, POS), which is the step's `pix_data`; POS
advances, and after 24 the frame is over; DIG is kept. For others it faults as PIXEL does. -/
def Obligations.PixelTransferCompletes : Prop :=
  ∀ s : State,
    (s.dig.toNat ≤ 9 → s.pos.toNat ≤ 24 →
      ∃ w, pixel Config.glyphTable s.dig s.pos = .ok w ∧ (s.busy = true → s.pixData = .ok w) ∧
        exec .pixelTransfer s = .next
          (if s.pos.toNat = 24 then { s with sink := s.sink ++ [w], busy := false, pos := 0 }
           else { s with sink := s.sink ++ [w], pos := BitVec.ofNat 5 (s.pos.toNat + 1) })) ∧
    (24 < s.pos.toNat → exec .pixelTransfer s = .fault (.posRange s.pos)) ∧
    (s.pos.toNat ≤ 24 → 9 < s.dig.toNat → exec .pixelTransfer s = .fault (.digitRange s.dig))

/-- R32: the outputs of a step are `pix_valid = BUSY and not rst`, `pix_data = PIXEL(DIG, POS)` if BUSY else 0, `busy`, `cnt_out`; a
word is transferred exactly when `pix_valid = 1` and `pix_ready = 1`, and it is that step's `pix_data`. -/
def Obligations.TransferExactlyOnHandshake : Prop :=
  ∀ s : State, s.Legal → ∃ t, step s = .next t ∧ t.inp = s.nextInputs ∧
    t.out.pixValid = (s.busy && !s.nextInputs.rst) ∧
    (s.busy = true → pixel Config.glyphTable s.dig s.pos = .ok t.out.pixData) ∧
    (s.busy = false → t.out.pixData = 0) ∧ t.out.busy = s.busy ∧ t.out.cntOut = s.cnt ∧
    t.sink = if t.out.pixValid && t.inp.pixReady then s.sink ++ [t.out.pixData] else s.sink

/-- R91: while a word is offered and not taken `pix_data` does not change; only a transfer changes POS; only a frame start changes
DIG, and none occurs while BUSY = 1. In steps without reset. -/
def Obligations.OfferedWordIsStable : Prop :=
  ∀ s : State, s.Legal → s.nextInputs.rst = false → ∃ t, step s = .next t ∧
    (s.busy = true → s.nextInputs.pixReady = false → t.pixData = s.pixData ∧ t.busy = true) ∧
    (t.pos ≠ s.pos → s.busy = true ∧ s.nextInputs.pixReady = true) ∧
    (t.dig ≠ s.dig → s.busy = false ∧ s.nextInputs.frameStart = true)

/-- R50: every register is written only by the operations of its row, and the sink, the ports and the rest of the state only by
PIXEL_TRANSFER or by none. -/
def Obligations.SingleWriterPerRegister : Prop :=
  ∀ (i : Instr) (s t : State), exec i s = .next t →
    (t.cnt ≠ s.cnt → i = .edgeA ∨ i = .edgeB ∨ i = .reset) ∧
    (t.tsa ≠ s.tsa → i = .edgeA ∨ i = .reset) ∧
    (t.tsb ≠ s.tsb → i = .edgeB ∨ i = .reset) ∧
    (t.busy ≠ s.busy ∨ t.pos ≠ s.pos → i = .frameStart ∨ i = .pixelTransfer ∨ i = .reset) ∧
    (t.dig ≠ s.dig → i = .frameStart ∨ i = .reset) ∧
    (t.sink ≠ s.sink → i = .pixelTransfer) ∧
    t.inp = s.inp ∧ t.out = s.out ∧ t.cntPre = s.cntPre ∧ t.stim = s.stim ∧ t.tick = s.tick

/-- R90, with R155 and R160. Take a step that starts a frame, and let no reset come. It latches a digit `d`, CNT as before or as
after that step, and moves no word. Take any further inputs `ins` such that before the last of them the sink has not been ready 25
times. Then the sink has received exactly `PIXEL(d, 0), …, PIXEL(d, n − 1)` more, in that order and with no other word, where `n` is
how many of `ins` find the sink ready; for `n < 25` the frame is at position `n`, and for `n = 25` it is complete. -/
def Obligations.FrameDeliversTwentyFiveWords : Prop :=
  ∀ (s : State) (i : Inputs) (ins : List Inputs), s.Legal → s.busy = false → s.Receives (i :: ins) → NoReset (i :: ins) →
    i.frameStart = true → readyCount ins.dropLast < 25 →
    ∃ s₁ t ws, step s = .next s₁ ∧ (s₁.dig = s.cnt ∨ s₁.dig = s₁.cnt) ∧ s₁.sink = s.sink ∧
      s.run (ins.length + 1) = .next t ∧ t.dig = s₁.dig ∧ t.sink = s.sink ++ ws ∧
      ws.map Except.ok =
        (List.range (readyCount ins)).map (fun p => pixel Config.glyphTable s₁.dig (BitVec.ofNat 5 p)) ∧
      (readyCount ins < 25 → t.busy = true ∧ t.pos.toNat = readyCount ins) ∧
      (readyCount ins = 25 → t.busy = false ∧ t.pos = 0) ∧ readyCount ins ≤ 25

/-- R136, R158: a sink that is never ready holds the sequencer for any number of steps; there is no timeout. -/
def Obligations.StallHasNoTimeout : Prop :=
  ∀ (s : State) (ins : List Inputs), s.Legal → s.busy = true → s.Receives ins → NoReset ins →
    (∀ i ∈ ins, i.pixReady = false) →
    ∃ t, s.run ins.length = .next t ∧ t.busy = true ∧ t.pos = s.pos ∧ t.dig = s.dig ∧ t.sink = s.sink

/-- R53, R118: what a step does to BUSY, POS and the sink does not depend on the debounce half, and neither does DIG unless a frame
starts: two steps that agree on the sequencer's registers and on the inputs agree on them afterwards. -/
def Obligations.SequencerIgnoresDebounce : Prop :=
  ∀ s s' t t' : State, s.busy = s'.busy → s.pos = s'.pos → s.dig = s'.dig → s.sink = s'.sink →
    s.nextInputs = s'.nextInputs → step s = .next t → step s' = .next t' →
    t.busy = t'.busy ∧ t.pos = t'.pos ∧ t.sink = t'.sink ∧
    (s.busy = true ∨ s.nextInputs.frameStart = false → t.dig = t'.dig)

/-! ## Invariants, faults and safe runs (10_state, 60_exceptions) -/

/-- The registers of RESET_STATE are legal (R150, R20). That the sink has received nothing, and so nothing illegal, and that the
model's own `cntPre` is 0, are the model's choice (log 4). -/
def Obligations.ResetIsLegal : Prop := State.reset.Legal ∧ State.reset.SinkLegal

/-- R21, R22, R25, R27: every step keeps the legal ranges of CNT, DIG and POS, and POS at 0 while no frame is in progress; from
every legal state, reached or not. -/
def Obligations.StepKeepsLegal : Prop :=
  ∀ s t : State, s.Legal → step s = .next t → t.Legal

/-- R84, R85: every step keeps this: each word the sink has received is LIT_WORD or 0, and so has 0 in its reserved byte. -/
def Obligations.StepKeepsSinkLegal : Prop :=
  ∀ s t : State, s.SinkLegal → step s = .next t →
    t.SinkLegal ∧ ∀ w ∈ t.sink, w.extractLsb' 0 8 = 0

/-- R130: from every legal state, under every input, the machine runs any number of steps with neither fault nor refusal, and stays
legal; in particular from reset. -/
def Obligations.EveryRunIsSafe : Prop :=
  (∀ (s : State) (k : Nat), s.Legal → ∃ t, s.run k = .next t ∧ t.Legal) ∧
  ∀ k : Nat, State.reset.SafeRun k

/-- R131, R132: a step faults only so: POS_RANGE with the position, for a frame in progress at a position past 24; DIGIT_RANGE with
DIG, for a frame in progress of a digit past 9 at a legal position; DIGIT_RANGE with CNT, for a frame start taken with CNT past 9.
The first two always fault, in a reset step too (log 6), and so does the third when no edge is presented. -/
def Obligations.StepFaultsExactly : Prop :=
  (∀ (s : State) (f : Fault), step s = .fault f →
    (s.busy = true ∧ 24 < s.pos.toNat ∧ f = .posRange s.pos) ∨
    (s.busy = true ∧ s.pos.toNat ≤ 24 ∧ 9 < s.dig.toNat ∧ f = .digitRange s.dig) ∨
    (s.busy = false ∧ s.nextInputs.rst = false ∧ s.nextInputs.frameStart = true ∧ 9 < s.cnt.toNat ∧
      f = .digitRange s.cnt)) ∧
  ∀ s : State,
    (s.busy = true → 24 < s.pos.toNat → step s = .fault (.posRange s.pos)) ∧
    (s.busy = true → s.pos.toNat ≤ 24 → 9 < s.dig.toNat → step s = .fault (.digitRange s.dig)) ∧
    (s.busy = false → s.nextInputs.rst = false → s.nextInputs.frameStart = true → 9 < s.cnt.toNat →
      s.nextInputs.edgeA = false → s.nextInputs.edgeB = false → step s = .fault (.digitRange s.cnt))

/-- R131, R132: nothing follows a fault. A step whose outputs can be formed faults only in FRAME_START, which is the last of its
operations. A run whose next step must fault (a position past 24 or a digit past 9 of a frame in progress; a frame start taken with
CNT past 9 and no edge) ends in that fault after one step and after any number of steps, whatever inputs are laid out, a reset among
them. -/
def Obligations.NothingFollowsAFault : Prop :=
  (∀ (s : State) (o : Outputs) (f : Fault), s.outputs s.nextInputs.rst = .ok o → step s = .fault f →
    ∃ before u, selected s.decodeWord = before ++ [.frameStart] ∧ execAll before (s.openStep o) = .next u ∧
      exec .frameStart u = .fault f) ∧
  ∀ (s : State) (k : Nat),
    (s.busy = true → 24 < s.pos.toNat → s.run (k + 1) = .fault (.posRange s.pos)) ∧
    (s.busy = true → s.pos.toNat ≤ 24 → 9 < s.dig.toNat → s.run (k + 1) = .fault (.digitRange s.dig)) ∧
    (s.busy = false → s.nextInputs.rst = false → s.nextInputs.frameStart = true → 9 < s.cnt.toNat →
      s.nextInputs.edgeA = false → s.nextInputs.edgeB = false → s.run (k + 1) = .fault (.digitRange s.cnt))

/-- No step is refused: every operation has its meaning. -/
def Obligations.StepNeverRefuses : Prop :=
  ∀ (s : State) (r : Refusal), step s ≠ .refused r
end

