-- ==== Sys2Proof/Laws/Decode.lean ====
section
/-! SUPPORT. What a decode word selects, in terms of the inputs it is formed from. -/

namespace Sys2Proof

/-- The selection for every value of the six bits, checked over all of them. -/
theorem selected_bits : ∀ r a b f p busy : Bool,
    selected (BitVec.ofBool r ++ BitVec.ofBool a ++ BitVec.ofBool b ++ BitVec.ofBool f ++ BitVec.ofBool p ++
      BitVec.ofBool busy : BitVec 6) =
    if r then [.reset]
    else (if a then [.edgeA] else []) ++ (if b then [.edgeB] else []) ++
      (if busy then (if f then [.frameStartIgnored] else []) ++ [if p then .pixelTransfer else .pixelHold]
       else [if f then .frameStart else .seqIdle]) := by decide

theorem selected_decodeWord_of_reset (i : Inputs) (busy : Bool) (h : i.rst = true) :
    selected (decodeWord i busy) = [.reset] := by
  have := selected_bits i.rst i.edgeA i.edgeB i.frameStart i.pixReady busy
  rw [if_pos h] at this
  exact this

theorem selected_decodeWord_without_reset (i : Inputs) (busy : Bool) (h : i.rst = false) :
    selected (decodeWord i busy) =
      (if i.edgeA then [.edgeA] else []) ++ (if i.edgeB then [.edgeB] else []) ++
        (if busy then (if i.frameStart then [.frameStartIgnored] else []) ++
          [if i.pixReady then .pixelTransfer else .pixelHold]
        else [if i.frameStart then .frameStart else .seqIdle]) := by
  have := selected_bits i.rst i.edgeA i.edgeB i.frameStart i.pixReady busy
  rw [if_neg (by simp [h])] at this
  exact this

@[simp] theorem decode_wordByte (d : DecodeWord) (rest : List Byte) :
    decode (wordByte d :: rest) = .ok (selected d, rest) := by
  have h : wordByte d &&& 0xC0 = 0 ∧ (wordByte d).setWidth 6 = d := by revert d; decide
  rw [decode, if_pos h.1, h.2]

theorem mem_all (i : Instr) : i ∈ Instr.all := by cases i <;> decide

theorem mem_selected {i : Instr} {d : DecodeWord} : i ∈ selected d ↔ d &&& i.mask = i.pattern := by
  simp [selected, Instr.selectedBy, mem_all]

end Sys2Proof
end

