-- ==== Sys2Proof/Laws/State.lean ====
section
/-! SUPPORT. One lemma for each field of State under each named update, so that no proof unfolds a record update. -/

namespace Sys2Proof.Machine

/-! ### setCnt -/

@[simp] theorem State.setCnt_cnt (s : State) (v : Digit) : (s.setCnt v).cnt = v := rfl
@[simp] theorem State.setCnt_tsa (s : State) (v : Digit) : (s.setCnt v).tsa = s.tsa := rfl
@[simp] theorem State.setCnt_tsb (s : State) (v : Digit) : (s.setCnt v).tsb = s.tsb := rfl
@[simp] theorem State.setCnt_busy (s : State) (v : Digit) : (s.setCnt v).busy = s.busy := rfl
@[simp] theorem State.setCnt_pos (s : State) (v : Digit) : (s.setCnt v).pos = s.pos := rfl
@[simp] theorem State.setCnt_dig (s : State) (v : Digit) : (s.setCnt v).dig = s.dig := rfl
@[simp] theorem State.setCnt_inp (s : State) (v : Digit) : (s.setCnt v).inp = s.inp := rfl
@[simp] theorem State.setCnt_out (s : State) (v : Digit) : (s.setCnt v).out = s.out := rfl
@[simp] theorem State.setCnt_sink (s : State) (v : Digit) : (s.setCnt v).sink = s.sink := rfl
@[simp] theorem State.setCnt_cntPre (s : State) (v : Digit) : (s.setCnt v).cntPre = s.cntPre := rfl
@[simp] theorem State.setCnt_stim (s : State) (v : Digit) : (s.setCnt v).stim = s.stim := rfl
@[simp] theorem State.setCnt_tick (s : State) (v : Digit) : (s.setCnt v).tick = s.tick := rfl

/-! ### setTsa -/

@[simp] theorem State.setTsa_cnt (s : State) (t : Time) : (s.setTsa t).cnt = s.cnt := rfl
@[simp] theorem State.setTsa_tsa (s : State) (t : Time) : (s.setTsa t).tsa = t := rfl
@[simp] theorem State.setTsa_tsb (s : State) (t : Time) : (s.setTsa t).tsb = s.tsb := rfl
@[simp] theorem State.setTsa_busy (s : State) (t : Time) : (s.setTsa t).busy = s.busy := rfl
@[simp] theorem State.setTsa_pos (s : State) (t : Time) : (s.setTsa t).pos = s.pos := rfl
@[simp] theorem State.setTsa_dig (s : State) (t : Time) : (s.setTsa t).dig = s.dig := rfl
@[simp] theorem State.setTsa_inp (s : State) (t : Time) : (s.setTsa t).inp = s.inp := rfl
@[simp] theorem State.setTsa_out (s : State) (t : Time) : (s.setTsa t).out = s.out := rfl
@[simp] theorem State.setTsa_sink (s : State) (t : Time) : (s.setTsa t).sink = s.sink := rfl
@[simp] theorem State.setTsa_cntPre (s : State) (t : Time) : (s.setTsa t).cntPre = s.cntPre := rfl
@[simp] theorem State.setTsa_stim (s : State) (t : Time) : (s.setTsa t).stim = s.stim := rfl
@[simp] theorem State.setTsa_tick (s : State) (t : Time) : (s.setTsa t).tick = s.tick := rfl

/-! ### setTsb -/

@[simp] theorem State.setTsb_cnt (s : State) (t : Time) : (s.setTsb t).cnt = s.cnt := rfl
@[simp] theorem State.setTsb_tsa (s : State) (t : Time) : (s.setTsb t).tsa = s.tsa := rfl
@[simp] theorem State.setTsb_tsb (s : State) (t : Time) : (s.setTsb t).tsb = t := rfl
@[simp] theorem State.setTsb_busy (s : State) (t : Time) : (s.setTsb t).busy = s.busy := rfl
@[simp] theorem State.setTsb_pos (s : State) (t : Time) : (s.setTsb t).pos = s.pos := rfl
@[simp] theorem State.setTsb_dig (s : State) (t : Time) : (s.setTsb t).dig = s.dig := rfl
@[simp] theorem State.setTsb_inp (s : State) (t : Time) : (s.setTsb t).inp = s.inp := rfl
@[simp] theorem State.setTsb_out (s : State) (t : Time) : (s.setTsb t).out = s.out := rfl
@[simp] theorem State.setTsb_sink (s : State) (t : Time) : (s.setTsb t).sink = s.sink := rfl
@[simp] theorem State.setTsb_cntPre (s : State) (t : Time) : (s.setTsb t).cntPre = s.cntPre := rfl
@[simp] theorem State.setTsb_stim (s : State) (t : Time) : (s.setTsb t).stim = s.stim := rfl
@[simp] theorem State.setTsb_tick (s : State) (t : Time) : (s.setTsb t).tick = s.tick := rfl

/-! ### setBusy -/

@[simp] theorem State.setBusy_cnt (s : State) (b : Bool) : (s.setBusy b).cnt = s.cnt := rfl
@[simp] theorem State.setBusy_tsa (s : State) (b : Bool) : (s.setBusy b).tsa = s.tsa := rfl
@[simp] theorem State.setBusy_tsb (s : State) (b : Bool) : (s.setBusy b).tsb = s.tsb := rfl
@[simp] theorem State.setBusy_busy (s : State) (b : Bool) : (s.setBusy b).busy = b := rfl
@[simp] theorem State.setBusy_pos (s : State) (b : Bool) : (s.setBusy b).pos = s.pos := rfl
@[simp] theorem State.setBusy_dig (s : State) (b : Bool) : (s.setBusy b).dig = s.dig := rfl
@[simp] theorem State.setBusy_inp (s : State) (b : Bool) : (s.setBusy b).inp = s.inp := rfl
@[simp] theorem State.setBusy_out (s : State) (b : Bool) : (s.setBusy b).out = s.out := rfl
@[simp] theorem State.setBusy_sink (s : State) (b : Bool) : (s.setBusy b).sink = s.sink := rfl
@[simp] theorem State.setBusy_cntPre (s : State) (b : Bool) : (s.setBusy b).cntPre = s.cntPre := rfl
@[simp] theorem State.setBusy_stim (s : State) (b : Bool) : (s.setBusy b).stim = s.stim := rfl
@[simp] theorem State.setBusy_tick (s : State) (b : Bool) : (s.setBusy b).tick = s.tick := rfl

/-! ### setPos -/

@[simp] theorem State.setPos_cnt (s : State) (p : Position) : (s.setPos p).cnt = s.cnt := rfl
@[simp] theorem State.setPos_tsa (s : State) (p : Position) : (s.setPos p).tsa = s.tsa := rfl
@[simp] theorem State.setPos_tsb (s : State) (p : Position) : (s.setPos p).tsb = s.tsb := rfl
@[simp] theorem State.setPos_busy (s : State) (p : Position) : (s.setPos p).busy = s.busy := rfl
@[simp] theorem State.setPos_pos (s : State) (p : Position) : (s.setPos p).pos = p := rfl
@[simp] theorem State.setPos_dig (s : State) (p : Position) : (s.setPos p).dig = s.dig := rfl
@[simp] theorem State.setPos_inp (s : State) (p : Position) : (s.setPos p).inp = s.inp := rfl
@[simp] theorem State.setPos_out (s : State) (p : Position) : (s.setPos p).out = s.out := rfl
@[simp] theorem State.setPos_sink (s : State) (p : Position) : (s.setPos p).sink = s.sink := rfl
@[simp] theorem State.setPos_cntPre (s : State) (p : Position) : (s.setPos p).cntPre = s.cntPre := rfl
@[simp] theorem State.setPos_stim (s : State) (p : Position) : (s.setPos p).stim = s.stim := rfl
@[simp] theorem State.setPos_tick (s : State) (p : Position) : (s.setPos p).tick = s.tick := rfl

/-! ### setDig -/

@[simp] theorem State.setDig_cnt (s : State) (d : Digit) : (s.setDig d).cnt = s.cnt := rfl
@[simp] theorem State.setDig_tsa (s : State) (d : Digit) : (s.setDig d).tsa = s.tsa := rfl
@[simp] theorem State.setDig_tsb (s : State) (d : Digit) : (s.setDig d).tsb = s.tsb := rfl
@[simp] theorem State.setDig_busy (s : State) (d : Digit) : (s.setDig d).busy = s.busy := rfl
@[simp] theorem State.setDig_pos (s : State) (d : Digit) : (s.setDig d).pos = s.pos := rfl
@[simp] theorem State.setDig_dig (s : State) (d : Digit) : (s.setDig d).dig = d := rfl
@[simp] theorem State.setDig_inp (s : State) (d : Digit) : (s.setDig d).inp = s.inp := rfl
@[simp] theorem State.setDig_out (s : State) (d : Digit) : (s.setDig d).out = s.out := rfl
@[simp] theorem State.setDig_sink (s : State) (d : Digit) : (s.setDig d).sink = s.sink := rfl
@[simp] theorem State.setDig_cntPre (s : State) (d : Digit) : (s.setDig d).cntPre = s.cntPre := rfl
@[simp] theorem State.setDig_stim (s : State) (d : Digit) : (s.setDig d).stim = s.stim := rfl
@[simp] theorem State.setDig_tick (s : State) (d : Digit) : (s.setDig d).tick = s.tick := rfl

/-! ### resetRegs -/

@[simp] theorem State.resetRegs_cnt (s : State) : (s.resetRegs).cnt = 0 := rfl
@[simp] theorem State.resetRegs_tsa (s : State) : (s.resetRegs).tsa = 0 := rfl
@[simp] theorem State.resetRegs_tsb (s : State) : (s.resetRegs).tsb = 0 := rfl
@[simp] theorem State.resetRegs_busy (s : State) : (s.resetRegs).busy = false := rfl
@[simp] theorem State.resetRegs_pos (s : State) : (s.resetRegs).pos = 0 := rfl
@[simp] theorem State.resetRegs_dig (s : State) : (s.resetRegs).dig = 0 := rfl
@[simp] theorem State.resetRegs_inp (s : State) : (s.resetRegs).inp = s.inp := rfl
@[simp] theorem State.resetRegs_out (s : State) : (s.resetRegs).out = s.out := rfl
@[simp] theorem State.resetRegs_sink (s : State) : (s.resetRegs).sink = s.sink := rfl
@[simp] theorem State.resetRegs_cntPre (s : State) : (s.resetRegs).cntPre = s.cntPre := rfl
@[simp] theorem State.resetRegs_stim (s : State) : (s.resetRegs).stim = s.stim := rfl
@[simp] theorem State.resetRegs_tick (s : State) : (s.resetRegs).tick = s.tick := rfl

/-! ### sinkPush -/

@[simp] theorem State.sinkPush_cnt (s : State) (w : PixWord) : (s.sinkPush w).cnt = s.cnt := rfl
@[simp] theorem State.sinkPush_tsa (s : State) (w : PixWord) : (s.sinkPush w).tsa = s.tsa := rfl
@[simp] theorem State.sinkPush_tsb (s : State) (w : PixWord) : (s.sinkPush w).tsb = s.tsb := rfl
@[simp] theorem State.sinkPush_busy (s : State) (w : PixWord) : (s.sinkPush w).busy = s.busy := rfl
@[simp] theorem State.sinkPush_pos (s : State) (w : PixWord) : (s.sinkPush w).pos = s.pos := rfl
@[simp] theorem State.sinkPush_dig (s : State) (w : PixWord) : (s.sinkPush w).dig = s.dig := rfl
@[simp] theorem State.sinkPush_inp (s : State) (w : PixWord) : (s.sinkPush w).inp = s.inp := rfl
@[simp] theorem State.sinkPush_out (s : State) (w : PixWord) : (s.sinkPush w).out = s.out := rfl
@[simp] theorem State.sinkPush_sink (s : State) (w : PixWord) : (s.sinkPush w).sink = s.sink ++ [w] := rfl
@[simp] theorem State.sinkPush_cntPre (s : State) (w : PixWord) : (s.sinkPush w).cntPre = s.cntPre := rfl
@[simp] theorem State.sinkPush_stim (s : State) (w : PixWord) : (s.sinkPush w).stim = s.stim := rfl
@[simp] theorem State.sinkPush_tick (s : State) (w : PixWord) : (s.sinkPush w).tick = s.tick := rfl

/-! ### openStep -/

@[simp] theorem State.openStep_cnt (s : State) (o : Outputs) : (s.openStep o).cnt = s.cnt := rfl
@[simp] theorem State.openStep_tsa (s : State) (o : Outputs) : (s.openStep o).tsa = s.tsa := rfl
@[simp] theorem State.openStep_tsb (s : State) (o : Outputs) : (s.openStep o).tsb = s.tsb := rfl
@[simp] theorem State.openStep_busy (s : State) (o : Outputs) : (s.openStep o).busy = s.busy := rfl
@[simp] theorem State.openStep_pos (s : State) (o : Outputs) : (s.openStep o).pos = s.pos := rfl
@[simp] theorem State.openStep_dig (s : State) (o : Outputs) : (s.openStep o).dig = s.dig := rfl
@[simp] theorem State.openStep_inp (s : State) (o : Outputs) : (s.openStep o).inp = s.nextInputs := rfl
@[simp] theorem State.openStep_out (s : State) (o : Outputs) : (s.openStep o).out = o := rfl
@[simp] theorem State.openStep_sink (s : State) (o : Outputs) : (s.openStep o).sink = s.sink := rfl
@[simp] theorem State.openStep_cntPre (s : State) (o : Outputs) : (s.openStep o).cntPre = s.cnt := rfl
@[simp] theorem State.openStep_stim (s : State) (o : Outputs) : (s.openStep o).stim = s.stim.tail := rfl
@[simp] theorem State.openStep_tick (s : State) (o : Outputs) : (s.openStep o).tick = s.tick := rfl

/-! ### closeStep -/

@[simp] theorem State.closeStep_cnt (s : State) : (s.closeStep).cnt = s.cnt := rfl
@[simp] theorem State.closeStep_tsa (s : State) : (s.closeStep).tsa = s.tsa := rfl
@[simp] theorem State.closeStep_tsb (s : State) : (s.closeStep).tsb = s.tsb := rfl
@[simp] theorem State.closeStep_busy (s : State) : (s.closeStep).busy = s.busy := rfl
@[simp] theorem State.closeStep_pos (s : State) : (s.closeStep).pos = s.pos := rfl
@[simp] theorem State.closeStep_dig (s : State) : (s.closeStep).dig = s.dig := rfl
@[simp] theorem State.closeStep_inp (s : State) : (s.closeStep).inp = s.inp := rfl
@[simp] theorem State.closeStep_out (s : State) : (s.closeStep).out = s.out := rfl
@[simp] theorem State.closeStep_sink (s : State) : (s.closeStep).sink = s.sink := rfl
@[simp] theorem State.closeStep_cntPre (s : State) : (s.closeStep).cntPre = s.cntPre := rfl
@[simp] theorem State.closeStep_stim (s : State) : (s.closeStep).stim = s.stim := rfl
@[simp] theorem State.closeStep_tick (s : State) : (s.closeStep).tick = s.tick + 1 := rfl

/-! ### present -/

@[simp] theorem State.present_cnt (s : State) (ins : List Inputs) : (s.present ins).cnt = s.cnt := rfl
@[simp] theorem State.present_tsa (s : State) (ins : List Inputs) : (s.present ins).tsa = s.tsa := rfl
@[simp] theorem State.present_tsb (s : State) (ins : List Inputs) : (s.present ins).tsb = s.tsb := rfl
@[simp] theorem State.present_busy (s : State) (ins : List Inputs) : (s.present ins).busy = s.busy := rfl
@[simp] theorem State.present_pos (s : State) (ins : List Inputs) : (s.present ins).pos = s.pos := rfl
@[simp] theorem State.present_dig (s : State) (ins : List Inputs) : (s.present ins).dig = s.dig := rfl
@[simp] theorem State.present_inp (s : State) (ins : List Inputs) : (s.present ins).inp = s.inp := rfl
@[simp] theorem State.present_out (s : State) (ins : List Inputs) : (s.present ins).out = s.out := rfl
@[simp] theorem State.present_sink (s : State) (ins : List Inputs) : (s.present ins).sink = s.sink := rfl
@[simp] theorem State.present_cntPre (s : State) (ins : List Inputs) : (s.present ins).cntPre = s.cntPre := rfl
@[simp] theorem State.present_stim (s : State) (ins : List Inputs) : (s.present ins).stim = ins ++ s.stim := rfl
@[simp] theorem State.present_tick (s : State) (ins : List Inputs) : (s.present ins).tick = s.tick := rfl

/-! ### placeWord -/

@[simp] theorem State.placeWord_cnt (s : State) (d : DecodeWord) : (s.placeWord d).cnt = s.cnt := rfl
@[simp] theorem State.placeWord_tsa (s : State) (d : DecodeWord) : (s.placeWord d).tsa = s.tsa := rfl
@[simp] theorem State.placeWord_tsb (s : State) (d : DecodeWord) : (s.placeWord d).tsb = s.tsb := rfl
@[simp] theorem State.placeWord_busy (s : State) (d : DecodeWord) : (s.placeWord d).busy = d.getLsbD 0 := rfl
@[simp] theorem State.placeWord_pos (s : State) (d : DecodeWord) : (s.placeWord d).pos = s.pos := rfl
@[simp] theorem State.placeWord_dig (s : State) (d : DecodeWord) : (s.placeWord d).dig = s.dig := rfl
@[simp] theorem State.placeWord_inp (s : State) (d : DecodeWord) : (s.placeWord d).inp = s.inp := rfl
@[simp] theorem State.placeWord_out (s : State) (d : DecodeWord) : (s.placeWord d).out = s.out := rfl
@[simp] theorem State.placeWord_sink (s : State) (d : DecodeWord) : (s.placeWord d).sink = s.sink := rfl
@[simp] theorem State.placeWord_cntPre (s : State) (d : DecodeWord) : (s.placeWord d).cntPre = s.cntPre := rfl
@[simp] theorem State.placeWord_stim (s : State) (d : DecodeWord) :
    (s.placeWord d).stim = Inputs.ofStrobes (d.extractLsb' 1 5) s.inp.nowUs :: s.stim := rfl
@[simp] theorem State.placeWord_tick (s : State) (d : DecodeWord) : (s.placeWord d).tick = s.tick := rfl

/-! ### startFrame -/

@[simp] theorem State.startFrame_cnt (s : State) (d : Digit) : (s.startFrame d).cnt = s.cnt := rfl
@[simp] theorem State.startFrame_tsa (s : State) (d : Digit) : (s.startFrame d).tsa = s.tsa := rfl
@[simp] theorem State.startFrame_tsb (s : State) (d : Digit) : (s.startFrame d).tsb = s.tsb := rfl
@[simp] theorem State.startFrame_busy (s : State) (d : Digit) : (s.startFrame d).busy = true := rfl
@[simp] theorem State.startFrame_pos (s : State) (d : Digit) : (s.startFrame d).pos = 0 := rfl
@[simp] theorem State.startFrame_dig (s : State) (d : Digit) : (s.startFrame d).dig = d := rfl
@[simp] theorem State.startFrame_inp (s : State) (d : Digit) : (s.startFrame d).inp = s.inp := rfl
@[simp] theorem State.startFrame_out (s : State) (d : Digit) : (s.startFrame d).out = s.out := rfl
@[simp] theorem State.startFrame_sink (s : State) (d : Digit) : (s.startFrame d).sink = s.sink := rfl
@[simp] theorem State.startFrame_cntPre (s : State) (d : Digit) : (s.startFrame d).cntPre = s.cntPre := rfl
@[simp] theorem State.startFrame_stim (s : State) (d : Digit) : (s.startFrame d).stim = s.stim := rfl
@[simp] theorem State.startFrame_tick (s : State) (d : Digit) : (s.startFrame d).tick = s.tick := rfl

/-! ### advance: the fields it never changes -/

@[simp] theorem State.advance_cnt (s : State) : s.advance.cnt = s.cnt := by
  unfold State.advance; split <;> rfl

@[simp] theorem State.advance_tsa (s : State) : s.advance.tsa = s.tsa := by
  unfold State.advance; split <;> rfl

@[simp] theorem State.advance_tsb (s : State) : s.advance.tsb = s.tsb := by
  unfold State.advance; split <;> rfl

@[simp] theorem State.advance_dig (s : State) : s.advance.dig = s.dig := by
  unfold State.advance; split <;> rfl

@[simp] theorem State.advance_inp (s : State) : s.advance.inp = s.inp := by
  unfold State.advance; split <;> rfl

@[simp] theorem State.advance_out (s : State) : s.advance.out = s.out := by
  unfold State.advance; split <;> rfl

@[simp] theorem State.advance_sink (s : State) : s.advance.sink = s.sink := by
  unfold State.advance; split <;> rfl

@[simp] theorem State.advance_cntPre (s : State) : s.advance.cntPre = s.cntPre := by
  unfold State.advance; split <;> rfl

@[simp] theorem State.advance_stim (s : State) : s.advance.stim = s.stim := by
  unfold State.advance; split <;> rfl

@[simp] theorem State.advance_tick (s : State) : s.advance.tick = s.tick := by
  unfold State.advance; split <;> rfl

/-! ### edgeA: the fields it never changes -/

@[simp] theorem State.edgeA_tsb (s : State) : s.edgeA.tsb = s.tsb := by
  unfold State.edgeA; split <;> rfl

@[simp] theorem State.edgeA_busy (s : State) : s.edgeA.busy = s.busy := by
  unfold State.edgeA; split <;> rfl

@[simp] theorem State.edgeA_pos (s : State) : s.edgeA.pos = s.pos := by
  unfold State.edgeA; split <;> rfl

@[simp] theorem State.edgeA_dig (s : State) : s.edgeA.dig = s.dig := by
  unfold State.edgeA; split <;> rfl

@[simp] theorem State.edgeA_inp (s : State) : s.edgeA.inp = s.inp := by
  unfold State.edgeA; split <;> rfl

@[simp] theorem State.edgeA_out (s : State) : s.edgeA.out = s.out := by
  unfold State.edgeA; split <;> rfl

@[simp] theorem State.edgeA_sink (s : State) : s.edgeA.sink = s.sink := by
  unfold State.edgeA; split <;> rfl

@[simp] theorem State.edgeA_cntPre (s : State) : s.edgeA.cntPre = s.cntPre := by
  unfold State.edgeA; split <;> rfl

@[simp] theorem State.edgeA_stim (s : State) : s.edgeA.stim = s.stim := by
  unfold State.edgeA; split <;> rfl

@[simp] theorem State.edgeA_tick (s : State) : s.edgeA.tick = s.tick := by
  unfold State.edgeA; split <;> rfl

/-! ### edgeB: the fields it never changes -/

@[simp] theorem State.edgeB_tsa (s : State) : s.edgeB.tsa = s.tsa := by
  unfold State.edgeB; split <;> rfl

@[simp] theorem State.edgeB_busy (s : State) : s.edgeB.busy = s.busy := by
  unfold State.edgeB; split <;> rfl

@[simp] theorem State.edgeB_pos (s : State) : s.edgeB.pos = s.pos := by
  unfold State.edgeB; split <;> rfl

@[simp] theorem State.edgeB_dig (s : State) : s.edgeB.dig = s.dig := by
  unfold State.edgeB; split <;> rfl

@[simp] theorem State.edgeB_inp (s : State) : s.edgeB.inp = s.inp := by
  unfold State.edgeB; split <;> rfl

@[simp] theorem State.edgeB_out (s : State) : s.edgeB.out = s.out := by
  unfold State.edgeB; split <;> rfl

@[simp] theorem State.edgeB_sink (s : State) : s.edgeB.sink = s.sink := by
  unfold State.edgeB; split <;> rfl

@[simp] theorem State.edgeB_cntPre (s : State) : s.edgeB.cntPre = s.cntPre := by
  unfold State.edgeB; split <;> rfl

@[simp] theorem State.edgeB_stim (s : State) : s.edgeB.stim = s.stim := by
  unfold State.edgeB; split <;> rfl

@[simp] theorem State.edgeB_tick (s : State) : s.edgeB.tick = s.tick := by
  unfold State.edgeB; split <;> rfl

/-! ### the fields that the conditional updates may change -/

theorem State.advance_of_last {s : State} (h : s.pos = 24) : s.advance = (s.setBusy false).setPos 0 := if_pos h

theorem State.advance_of_not_last {s : State} (h : s.pos ≠ 24) : s.advance = s.setPos (s.pos + 1) := if_neg h

theorem State.edgeA_cnt (s : State) : s.edgeA.cnt = if s.acceptsA then incDigit s.cnt else s.cnt := by
  unfold State.edgeA; split <;> rfl

theorem State.edgeA_tsa (s : State) : s.edgeA.tsa = if s.acceptsA then s.inp.nowUs else s.tsa := by
  unfold State.edgeA; split <;> rfl

theorem State.edgeB_cnt (s : State) : s.edgeB.cnt = if s.acceptsB then decDigit s.cnt else s.cnt := by
  unfold State.edgeB; split <;> rfl

theorem State.edgeB_tsb (s : State) : s.edgeB.tsb = if s.acceptsB then s.inp.nowUs else s.tsb := by
  unfold State.edgeB; split <;> rfl

end Sys2Proof.Machine
end

