-- ==== Sys2Proof/Laws/Units.lean ====
section
/-! SUPPORT. One lemma for each shared unit, saying what it answers: counter arithmetic, the comparator, the draw, the mirror, the
glyph lookup, the encoder, the pixel word and the outputs. -/

namespace Sys2Proof.Machine

/-! ## Counter arithmetic and the comparator -/

theorem incDigit_toNat (c : Digit) : (incDigit c).toNat = (c.toNat + 1) % 10 := by
  simp only [incDigit, BitVec.toNat_ofNat, Config.numDigits]; omega

theorem decDigit_toNat (c : Digit) : (decDigit c).toNat = (c.toNat + 9) % 10 := by
  simp only [decDigit, BitVec.toNat_ofNat, Config.numDigits]; omega

theorem incDigit_le (c : Digit) : (incDigit c).toNat ≤ 9 := by rw [incDigit_toNat]; omega

theorem decDigit_le (c : Digit) : (decDigit c).toNat ≤ 9 := by rw [decDigit_toNat]; omega

theorem accept_of_le {now last : Nat} {d : Bool} (h : last ≤ now) :
    accept now last d = decide (200000 < now - last) := by rw [accept, if_pos h]; rfl

theorem accept_of_lt {now last : Nat} {d : Bool} (h : now < last) : accept now last d = d := by
  simp [accept, Nat.not_le.2 h]

theorem drawDigit_same (c : Digit) (b : Bool) : drawDigit c c b = c := by simp [drawDigit]

theorem drawDigit_cases (pre post : Digit) (b : Bool) : drawDigit pre post b = pre ∨ drawDigit pre post b = post := by
  unfold drawDigit; split
  · exact .inr rfl
  · cases b <;> simp

/-! ## The renderer -/

theorem mirror_of_le {p : Position} (h : p.toNat ≤ 24) :
    mirror p = .ok (BitVec.ofNat 5 (5 * (p.toNat / 5) + (4 - p.toNat % 5))) := by
  simp [mirror, Nat.not_lt.2 h, cellIndex, rowOf, colOf]

theorem mirror_of_gt {p : Position} (h : 24 < p.toNat) : mirror p = .error (.posRange p) := by simp [mirror, h]

theorem glyphLookup_of_le (g : GlyphTable) {d : Digit} {i : Position} (hd : d.toNat < 10) (hi : i.toNat < 25) :
    glyphLookup g d i = .ok (g ⟨d.toNat, hd⟩ ⟨i.toNat, hi⟩) := by
  have hr : (0 : Int) ≤ glyphAddress d i ∧ glyphAddress d i ≤ 249 := by
    simp only [glyphAddress, Config.numPixels]; omega
  have h1 : (glyphAddress d i / 25).toNat = d.toNat := by simp only [glyphAddress, Config.numPixels]; omega
  have h2 : (glyphAddress d i % 25).toNat = i.toNat := by simp only [glyphAddress, Config.numPixels]; omega
  simp only [glyphLookup, memReadGrom, Nat.not_lt.2 (Nat.le_of_lt_succ hd), Nat.not_lt.2 (Nat.le_of_lt_succ hi), if_false,
    dif_pos hr, h1, h2]

theorem glyphLookup_of_digit (g : GlyphTable) {d : Digit} (i : Position) (h : 9 < d.toNat) :
    glyphLookup g d i = .error (.digitRange d) := by simp [glyphLookup, h]

theorem encChannelExact_scaled (x : Intensity) :
    encChannelExact x = BitVec.ofNat 8 ⌊x.val * (51 / 20)⌋₊ := by
  have h : x.val * (Config.fullScale : ℝ) * (Config.brightness : ℝ) = x.val * (51 / 20) := by
    simp only [Config.fullScale, Config.brightness]; push_cast; ring
  rw [encChannelExact, h]

/-- The result fits in its eight bits: it is the greatest whole number not above the scaled intensity. -/
theorem encChannelExact_toNat (x : Intensity) : (encChannelExact x).toNat = ⌊x.val * (51 / 20)⌋₊ := by
  have h : ⌊x.val * (51 / 20)⌋₊ < 3 := (Nat.floor_lt (by linarith [x.2.1])).2 (by push_cast; linarith [x.2.2])
  rw [encChannelExact_scaled, BitVec.toNat_ofNat]
  omega

theorem encChannelExact_eq_iff (x : Intensity) (n : Nat) :
    (encChannelExact x).toNat = n ↔ (n : ℝ) ≤ x.val * (51 / 20) ∧ x.val * (51 / 20) < n + 1 := by
  rw [encChannelExact_toNat]
  exact Nat.floor_eq_iff (by linarith [x.2.1])

/-- The exact reference obeys the four laws. -/
theorem lawful_encChannelExact : LawfulEnc encChannelExact where
  dark := BitVec.eq_of_toNat_eq ((encChannelExact_eq_iff _ 0).2 (by norm_num [Intensity.dark]))
  full := BitVec.eq_of_toNat_eq ((encChannelExact_eq_iff _ 2).2 (by norm_num [Intensity.full]))
  mono x y h := by
    rw [encChannelExact_toNat, encChannelExact_toNat]
    exact Nat.floor_mono (by linarith)
  range x := by
    rw [encChannelExact_toNat]
    exact Nat.le_of_lt_succ ((Nat.floor_lt (by linarith [x.2.1])).2 (by push_cast; linarith [x.2.2]))

theorem encFrom_of_lawful {f : Intensity → Byte} (h : LawfulEnc f) : encFrom f = f := if_pos h

theorem lawful_encFrom (f : Intensity → Byte) : LawfulEnc (encFrom f) := by
  unfold encFrom
  split
  · assumption
  · exact lawful_encChannelExact

/-- Whatever the configuration's function, ENC_CHANNEL obeys the four laws. -/
theorem lawful_encChannel : LawfulEnc encChannel := lawful_encFrom _

/-- On the two intensities the renderer supplies, ENC_CHANNEL is the form that can be evaluated. -/
@[simp] theorem encChannel_intensity (bit : Bool) : encChannel (intensity bit) = encChannelBit bit := by
  cases bit
  · exact lawful_encChannel.dark
  · exact lawful_encChannel.full

/-- The hardware form of ENCODE is the encoder on intensities. -/
theorem encodeColor_eq_encodeIntensities (r g b : Bool) :
    encodeColor r g b = encodeIntensities (intensity r) (intensity g) (intensity b) := by
  simp [encodeColor, encodeIntensities]

theorem encodeColor_eq (r g b : Bool) :
    encodeColor r g b = packWord (if r then 2 else 0) (if g then 2 else 0) (if b then 2 else 0) := rfl

theorem encodeColor_same (l : Bool) : encodeColor l l l = if l then Config.litWord else 0 := by
  rw [encodeColor_eq]; cases l <;> decide

theorem pixel_of_position (g : GlyphTable) (d : Digit) {p : Position} (h : 24 < p.toNat) :
    pixel g d p = .error (.posRange p) := by simp [pixel, mirror_of_gt h]

theorem pixel_of_digit (g : GlyphTable) {d : Digit} {p : Position} (hp : p.toNat ≤ 24) (hd : 9 < d.toNat) :
    pixel g d p = .error (.digitRange d) := by
  simp [pixel, mirror_of_le hp, glyphLookup_of_digit g _ hd]

theorem pixel_of_le (g : GlyphTable) {d : Digit} {p : Position} (hd : d.toNat < 10) (hp : p.toNat ≤ 24)
    (hm : 5 * (p.toNat / 5) + (4 - p.toNat % 5) < 25) :
    pixel g d p =
      .ok (if g ⟨d.toNat, hd⟩ ⟨5 * (p.toNat / 5) + (4 - p.toNat % 5), hm⟩ then Config.litWord else 0) := by
  have ht : (BitVec.ofNat 5 (5 * (p.toNat / 5) + (4 - p.toNat % 5))).toNat = 5 * (p.toNat / 5) + (4 - p.toNat % 5) := by
    simp only [BitVec.toNat_ofNat]; omega
  simp only [pixel, mirror_of_le hp, glyphLookup_of_le g hd (ht ▸ hm), encodeColor_same, ht]

/-- A legal digit at a legal position has a word, one that the renderer can emit. -/
theorem pixel_legal (g : GlyphTable) {d : Digit} {p : Position} (hd : d.toNat ≤ 9) (hp : p.toNat ≤ 24) :
    ∃ w, pixel g d p = .ok w ∧ isFrameWord w := by
  refine ⟨_, pixel_of_le g (Nat.lt_succ_of_le hd) hp (by omega), ?_⟩
  split
  · exact .inr rfl
  · exact .inl rfl

/-- Whatever the digit and position: a word that the renderer can emit, or a fault that names the position or the digit. -/
theorem pixel_cases (g : GlyphTable) (d : Digit) (p : Position) :
    (∃ w, pixel g d p = .ok w ∧ isFrameWord w ∧ d.toNat ≤ 9 ∧ p.toNat ≤ 24) ∨
    (24 < p.toNat ∧ pixel g d p = .error (.posRange p)) ∨
    (p.toNat ≤ 24 ∧ 9 < d.toNat ∧ pixel g d p = .error (.digitRange d)) := by
  rcases Nat.lt_or_ge 24 p.toNat with hp | hp
  · exact .inr (.inl ⟨hp, pixel_of_position g d hp⟩)
  · rcases Nat.lt_or_ge 9 d.toNat with hd | hd
    · exact .inr (.inr ⟨hp, hd, pixel_of_digit g hp hd⟩)
    · obtain ⟨w, hw, hf⟩ := pixel_legal g hd hp
      exact .inl ⟨w, hw, hf, hd, hp⟩

/-! ## The outputs -/

theorem outputs_of_idle {s : State} (rst : Bool) (h : s.busy = false) :
    s.outputs rst = .ok { pixValid := false, pixData := 0, busy := false, cntOut := s.cnt } := by
  simp [State.outputs, State.pixData, h]

theorem outputs_of_busy {s : State} (rst : Bool) (h : s.busy = true) {w : PixWord}
    (hw : pixel Config.glyphTable s.dig s.pos = .ok w) :
    s.outputs rst = .ok { pixValid := !rst, pixData := w, busy := true, cntOut := s.cnt } := by
  simp [State.outputs, State.pixData, h, hw]

theorem outputs_of_fault {s : State} (rst : Bool) (h : s.busy = true) {f : Fault}
    (hf : pixel Config.glyphTable s.dig s.pos = .error f) : s.outputs rst = .error f := by
  simp [State.outputs, State.pixData, h, hf]

/-- The outputs of a step as fields, when they can be formed. -/
theorem outputs_eq_ok {s : State} {rst : Bool} {o : Outputs} (h : s.outputs rst = .ok o) :
    s.pixData = .ok o.pixData ∧ o.pixValid = (s.busy && !rst) ∧ o.busy = s.busy ∧ o.cntOut = s.cnt := by
  unfold State.outputs at h
  split at h
  · cases h
  · rename_i w hw
    cases h
    exact ⟨hw, rfl, rfl, rfl⟩

/-- In a legal state the outputs can be formed. -/
theorem outputs_of_legal {s : State} (h : s.Legal) (rst : Bool) : ∃ o, s.outputs rst = .ok o := by
  obtain ⟨-, hd, hp, -, -⟩ := h
  cases hb : s.busy with
  | false => exact ⟨_, outputs_of_idle rst hb⟩
  | true =>
    obtain ⟨w, hw, -⟩ := pixel_legal Config.glyphTable hd hp
    exact ⟨_, outputs_of_busy rst hb hw⟩

end Sys2Proof.Machine
end

