-- ==== Sys2Proof/Laws/Exec.lean ====
section
/-! SUPPORT. What each meaning can answer, once for each operation: cite these instead of unfolding a meaning. -/

namespace Sys2Proof.Machine

@[simp] theorem exec_reset (s : State) : exec .reset s = .next s.resetRegs := rfl

@[simp] theorem exec_edgeA (s : State) : exec .edgeA s = .next s.edgeA := rfl

@[simp] theorem exec_edgeB (s : State) : exec .edgeB s = .next s.edgeB := rfl

@[simp] theorem exec_frameStartIgnored (s : State) : exec .frameStartIgnored s = .next s := rfl

@[simp] theorem exec_pixelHold (s : State) : exec .pixelHold s = .next s := rfl

@[simp] theorem exec_seqIdle (s : State) : exec .seqIdle s = .next s := rfl

/-- A frame start reads a legal digit and starts its frame, or faults with the digit. -/
theorem exec_frameStart_cases (s : State) :
    (s.frameDigit.toNat ≤ 9 ∧ exec .frameStart s = .next (s.startFrame s.frameDigit)) ∨
    (9 < s.frameDigit.toNat ∧ exec .frameStart s = .fault (.digitRange s.frameDigit)) := by
  rcases Nat.lt_or_ge 9 s.frameDigit.toNat with h | h
  · exact .inr ⟨h, if_pos h⟩
  · exact .inl ⟨h, if_neg (Nat.not_lt.2 h)⟩

/-- A transfer pushes the word at POS and advances, or faults as PIXEL does. -/
theorem exec_pixelTransfer_ok {s : State} {w : PixWord} (h : pixel Config.glyphTable s.dig s.pos = .ok w) :
    exec .pixelTransfer s = .next (s.sinkPush w).advance := by
  simp only [exec, execPixelTransfer, h]

theorem exec_pixelTransfer_fault {s : State} {f : Fault} (h : pixel Config.glyphTable s.dig s.pos = .error f) :
    exec .pixelTransfer s = .fault f := by
  simp only [exec, execPixelTransfer, h]

/-- No operation is refused. -/
theorem exec_ne_refused (i : Instr) (s : State) (r : Refusal) : exec i s ≠ .refused r := by
  cases i with
  | frameStart => rcases exec_frameStart_cases s with ⟨-, h⟩ | ⟨-, h⟩ <;> simp [h]
  | pixelTransfer =>
    rcases pixel_cases Config.glyphTable s.dig s.pos with ⟨w, h, -⟩ | ⟨-, h⟩ | ⟨-, -, h⟩
    · simp [exec_pixelTransfer_ok h]
    · simp [exec_pixelTransfer_fault h]
    · simp [exec_pixelTransfer_fault h]
  | _ => simp

/-- The position after an advance: the next one, or 0 with the frame over. -/
theorem advance_cases (s : State) :
    (s.pos = 24 ∧ s.advance = (s.setBusy false).setPos 0) ∨ (s.pos ≠ 24 ∧ s.advance = s.setPos (s.pos + 1)) := by
  by_cases h : s.pos = 24
  · exact .inl ⟨h, State.advance_of_last h⟩
  · exact .inr ⟨h, State.advance_of_not_last h⟩

/-- An edge changes the counter and its own timestamp, or nothing. -/
theorem edgeA_cases (s : State) :
    (s.acceptsA = true ∧ s.edgeA = (s.setCnt (incDigit s.cnt)).setTsa s.inp.nowUs) ∨
    (s.acceptsA = false ∧ s.edgeA = s) := by
  cases h : s.acceptsA
  · exact .inr ⟨rfl, by simp [State.edgeA, h]⟩
  · exact .inl ⟨rfl, by simp [State.edgeA, h, State.nowOperand]⟩

theorem edgeB_cases (s : State) :
    (s.acceptsB = true ∧ s.edgeB = (s.setCnt (decDigit s.cnt)).setTsb s.inp.nowUs) ∨
    (s.acceptsB = false ∧ s.edgeB = s) := by
  cases h : s.acceptsB
  · exact .inr ⟨rfl, by simp [State.edgeB, h]⟩
  · exact .inl ⟨rfl, by simp [State.edgeB, h, State.nowOperand]⟩

@[simp] theorem acceptsB_edgeA (s : State) : s.edgeA.acceptsB = s.acceptsB := by
  simp [State.acceptsB, State.nowOperand]

@[simp] theorem acceptsA_edgeB (s : State) : s.edgeB.acceptsA = s.acceptsA := by
  simp [State.acceptsA, State.nowOperand]

theorem edgeA_cnt_le {s : State} (h : s.cnt.toNat ≤ 9) : s.edgeA.cnt.toNat ≤ 9 := by
  rw [State.edgeA_cnt]; split
  · exact incDigit_le _
  · exact h

theorem edgeB_cnt_le {s : State} (h : s.cnt.toNat ≤ 9) : s.edgeB.cnt.toNat ≤ 9 := by
  rw [State.edgeB_cnt]; split
  · exact decDigit_le _
  · exact h

end Sys2Proof.Machine
end

