-- ==== Sys2Proof/Laws/PerInstr.lean ====
section
/-! SUPPORT. The statements made for each operation, one lemma for each constructor. -/

namespace Sys2Proof.Laws.WordOf

/-- Whatever its don't-care bits, the encoded word of the operation selects the operation (spec/30_encoding.md R61). -/
def Statement (i : Instr) : Prop := ∀ fill : DecodeWord, i ∈ selected (encode i fill)

theorem reset : Statement .reset := by unfold Statement; decide
theorem edgeA : Statement .edgeA := by unfold Statement; decide
theorem edgeB : Statement .edgeB := by unfold Statement; decide
theorem frameStart : Statement .frameStart := by unfold Statement; decide
theorem frameStartIgnored : Statement .frameStartIgnored := by unfold Statement; decide
theorem pixelTransfer : Statement .pixelTransfer := by unfold Statement; decide
theorem pixelHold : Statement .pixelHold := by unfold Statement; decide
theorem seqIdle : Statement .seqIdle := by unfold Statement; decide

end Sys2Proof.Laws.WordOf
end

