-- ==== Sys2Proof/Laws/Step.lean ====
section
/-! SUPPORT. What a step can do, said once: a reset step, and a step without reset as the debounce updates followed by one
sequencer operation. Later proofs cite `step_cases` and the four lemmas before it instead of unfolding the step. -/

namespace Sys2Proof.Machine

/-- The state after the debounce updates of a step without reset (R62). -/
def State.debounced (s : State) (o : Outputs) : State :=
  let u := if s.nextInputs.edgeA then (s.openStep o).edgeA else s.openStep o
  if s.nextInputs.edgeB then u.edgeB else u

theorem step_of_output_fault {s : State} {f : Fault} (h : s.outputs s.nextInputs.rst = .error f) : step s = .fault f := by
  simp [step, clockEdge, h]

@[simp] theorem andThen_next (t : State) (f : State → Host.Outcome State Fault Refusal) : andThen (.next t) f = f t := rfl

@[simp] theorem andThen_fault (e : Fault) (f : State → Host.Outcome State Fault Refusal) :
    andThen (.fault e) f = .fault e := rfl

@[simp] theorem andThen_refused (e : Refusal) (f : State → Host.Outcome State Fault Refusal) :
    andThen (.refused e) f = .refused e := rfl

theorem execAll_cons (i : Instr) (ops : List Instr) (s : State) :
    execAll (i :: ops) s = andThen (exec i s) (execAll ops) := rfl

@[simp] theorem execAll_nil (s : State) : execAll [] s = .next s := rfl

@[simp] theorem execAll_edgeA (ops : List Instr) (s : State) : execAll (.edgeA :: ops) s = execAll ops s.edgeA := rfl

@[simp] theorem execAll_edgeB (ops : List Instr) (s : State) : execAll (.edgeB :: ops) s = execAll ops s.edgeB := rfl

@[simp] theorem execAll_ignored (ops : List Instr) (s : State) :
    execAll (.frameStartIgnored :: ops) s = execAll ops s := rfl

@[simp] theorem execAll_single (i : Instr) (s : State) : execAll [i] s = exec i s := by
  rw [execAll_cons]; cases exec i s <;> rfl

theorem step_of_reset {s : State} {o : Outputs} (hr : s.nextInputs.rst = true) (h : s.outputs s.nextInputs.rst = .ok o) :
    step s = .next (s.openStep o).resetRegs.closeStep := by
  simp [step, clockEdge, h, State.decodeWord, selected_decodeWord_of_reset _ _ hr]

/-- A step without reset is the debounce updates followed by the sequencer operation. -/
theorem step_without_reset {s : State} {o : Outputs} (hr : s.nextInputs.rst = false)
    (h : s.outputs s.nextInputs.rst = .ok o) :
    step s =
      andThen (exec (if s.busy then (if s.nextInputs.pixReady then .pixelTransfer else .pixelHold)
        else (if s.nextInputs.frameStart then .frameStart else .seqIdle)) (s.debounced o)) fun t => .next t.closeStep := by
  simp only [step, clockEdge, h, State.decodeWord, selected_decodeWord_without_reset _ _ hr, State.debounced]
  cases s.nextInputs.edgeA <;> cases s.nextInputs.edgeB <;> cases s.busy <;> cases s.nextInputs.frameStart <;>
    simp

/-! ### the fields of the debounced state -/

@[simp] theorem debounced_busy (s : State) (o : Outputs) : (s.debounced o).busy = s.busy := by
  unfold State.debounced; split <;> split <;> simp
@[simp] theorem debounced_pos (s : State) (o : Outputs) : (s.debounced o).pos = s.pos := by
  unfold State.debounced; split <;> split <;> simp
@[simp] theorem debounced_dig (s : State) (o : Outputs) : (s.debounced o).dig = s.dig := by
  unfold State.debounced; split <;> split <;> simp
@[simp] theorem debounced_inp (s : State) (o : Outputs) : (s.debounced o).inp = s.nextInputs := by
  unfold State.debounced; split <;> split <;> simp
@[simp] theorem debounced_out (s : State) (o : Outputs) : (s.debounced o).out = o := by
  unfold State.debounced; split <;> split <;> simp
@[simp] theorem debounced_sink (s : State) (o : Outputs) : (s.debounced o).sink = s.sink := by
  unfold State.debounced; split <;> split <;> simp
@[simp] theorem debounced_cntPre (s : State) (o : Outputs) : (s.debounced o).cntPre = s.cnt := by
  unfold State.debounced; split <;> split <;> simp
@[simp] theorem debounced_stim (s : State) (o : Outputs) : (s.debounced o).stim = s.stim.tail := by
  unfold State.debounced; split <;> split <;> simp
@[simp] theorem debounced_tick (s : State) (o : Outputs) : (s.debounced o).tick = s.tick := by
  unfold State.debounced; split <;> split <;> simp

theorem acceptsA_openStep (s : State) (o : Outputs) (hr : s.nextInputs.rst = false) (ha : s.nextInputs.edgeA = true) :
    (s.openStep o).acceptsA = s.takesA := by
  simp [State.acceptsA, State.takesA, State.nowOperand, hr, ha]

theorem acceptsB_openStep (s : State) (o : Outputs) (hr : s.nextInputs.rst = false) (hb : s.nextInputs.edgeB = true) :
    (s.openStep o).acceptsB = s.takesB := by
  simp [State.acceptsB, State.takesB, State.nowOperand, hr, hb]

/-- TSA after the debounce updates. -/
theorem debounced_tsa (s : State) (o : Outputs) (hr : s.nextInputs.rst = false) :
    (s.debounced o).tsa = if s.takesA then s.nextInputs.nowUs else s.tsa := by
  cases ha : s.nextInputs.edgeA
  · have : s.takesA = false := by simp [State.takesA, ha]
    unfold State.debounced; cases s.nextInputs.edgeB <;> simp [ha, this]
  · unfold State.debounced
    cases s.nextInputs.edgeB <;> simp [ha, State.edgeA_tsa, acceptsA_openStep s o hr ha]

/-- TSB after the debounce updates. -/
theorem debounced_tsb (s : State) (o : Outputs) (hr : s.nextInputs.rst = false) :
    (s.debounced o).tsb = if s.takesB then s.nextInputs.nowUs else s.tsb := by
  cases hb : s.nextInputs.edgeB
  · have : s.takesB = false := by simp [State.takesB, hb]
    unfold State.debounced; cases s.nextInputs.edgeA <;> simp [hb, this]
  · unfold State.debounced
    cases s.nextInputs.edgeA <;> simp [hb, State.edgeB_tsb, acceptsB_openStep s o hr hb]

/-- CNT after the debounce updates. -/
theorem debounced_cnt (s : State) (o : Outputs) (hr : s.nextInputs.rst = false) :
    (s.debounced o).cnt =
      (let c := if s.takesA then incDigit s.cnt else s.cnt
       if s.takesB then decDigit c else c) := by
  have hA : s.nextInputs.edgeA = false → s.takesA = false := fun h => by simp [State.takesA, h]
  have hB : s.nextInputs.edgeB = false → s.takesB = false := fun h => by simp [State.takesB, h]
  unfold State.debounced
  cases ha : s.nextInputs.edgeA <;> cases hb : s.nextInputs.edgeB
  · simp [hA ha, hB hb]
  · simp [hA ha, State.edgeB_cnt, acceptsB_openStep s o hr hb]
  · simp [hB hb, State.edgeA_cnt, acceptsA_openStep s o hr ha]
  · simp [State.edgeA_cnt, State.edgeB_cnt, acceptsA_openStep s o hr ha, acceptsB_openStep s o hr hb]

theorem debounced_cnt_le {s : State} {o : Outputs} (hr : s.nextInputs.rst = false) (h : s.cnt.toNat ≤ 9) :
    (s.debounced o).cnt.toNat ≤ 9 := by
  rw [debounced_cnt s o hr]
  simp only
  split
  · exact decDigit_le _
  · split
    · exact incDigit_le _
    · exact h

/-- Everything a step that answers a next state can be: a reset; or, after the debounce updates, a transfer, a wait, or a frame
start. -/
theorem step_cases {s t : State} (h : step s = .next t) :
    ∃ o, s.outputs s.nextInputs.rst = .ok o ∧
      ((s.nextInputs.rst = true ∧ t = (s.openStep o).resetRegs.closeStep) ∨
       (s.nextInputs.rst = false ∧
         ((s.busy = true ∧ s.nextInputs.pixReady = true ∧ pixel Config.glyphTable s.dig s.pos = .ok o.pixData ∧
            t = ((s.debounced o).sinkPush o.pixData).advance.closeStep) ∨
          (s.busy = true ∧ s.nextInputs.pixReady = false ∧ t = (s.debounced o).closeStep) ∨
          (s.busy = false ∧ s.nextInputs.frameStart = true ∧ (s.debounced o).frameDigit.toNat ≤ 9 ∧
            t = ((s.debounced o).startFrame (s.debounced o).frameDigit).closeStep) ∨
          (s.busy = false ∧ s.nextInputs.frameStart = false ∧ t = (s.debounced o).closeStep)))) := by
  cases ho : s.outputs s.nextInputs.rst with
  | error f => simp [step_of_output_fault ho] at h
  | ok o =>
    refine ⟨o, rfl, ?_⟩
    cases hr : s.nextInputs.rst with
    | true =>
      rw [step_of_reset hr ho] at h
      exact .inl ⟨rfl, by cases h; rfl⟩
    | false =>
      refine .inr ⟨rfl, ?_⟩
      rw [step_without_reset hr ho] at h
      cases hb : s.busy with
      | true =>
        have hpd := (outputs_eq_ok ho).1
        simp only [State.pixData, hb, if_true] at hpd
        cases hp : s.nextInputs.pixReady with
        | true =>
          have hx : exec .pixelTransfer (s.debounced o) = .next ((s.debounced o).sinkPush o.pixData).advance :=
            exec_pixelTransfer_ok (by simpa using hpd)
          simp only [hb, hp, if_true, hx] at h
          exact .inl ⟨rfl, rfl, hpd, by cases h; rfl⟩
        | false =>
          simp only [hb, hp, if_true, Bool.false_eq_true, if_false, exec_pixelHold] at h
          exact .inr (.inl ⟨rfl, rfl, by cases h; rfl⟩)
      | false =>
        cases hf : s.nextInputs.frameStart with
        | true =>
          simp only [hb, hf, if_true, Bool.false_eq_true, if_false] at h
          rcases exec_frameStart_cases (s.debounced o) with ⟨hd, hx⟩ | ⟨-, hx⟩
          · rw [hx] at h
            exact .inr (.inr (.inl ⟨rfl, rfl, hd, by cases h; rfl⟩))
          · simp [hx] at h
        | false =>
          simp only [hb, hf, Bool.false_eq_true, if_false, exec_seqIdle] at h
          exact .inr (.inr (.inr ⟨rfl, rfl, by cases h; rfl⟩))

/-- A step's inputs are those laid out first, where some are. -/
theorem nextInputs_of_cons {s : State} {i : Inputs} {rest : List Inputs} (h : s.stim = i :: rest) : s.nextInputs = i := by
  simp [State.nextInputs, h]

/-- After a step the inputs laid out are those that were left. -/
theorem stim_of_step {s t : State} (h : step s = .next t) : t.stim = s.stim.tail := by
  obtain ⟨o, -, ⟨-, rfl⟩ | ⟨-, ⟨-, -, -, rfl⟩ | ⟨-, -, rfl⟩ | ⟨-, -, -, rfl⟩ | ⟨-, -, rfl⟩⟩⟩ := step_cases h <;> simp

/-- One step of a run. -/
theorem run_succ (s : State) (k : Nat) : s.run (k + 1) = andThen (step s) fun t => t.run k := by
  have h : Sys2Proof.core.step s = step s := rfl
  simp only [State.run, Host.Core.run, h]
  cases step s <;> rfl

@[simp] theorem run_zero (s : State) : s.run 0 = .next s := rfl

theorem run_succ_of_step {s t : State} (h : step s = .next t) (k : Nat) : s.run (k + 1) = t.run k := by
  rw [run_succ, h, andThen_next]

end Sys2Proof.Machine
end

