-- ==== Sys2Proof/Tests/Slice0.lean ====
section
/-! SUPPORT. The model's own tests. Every expected result is from spec/: the tables of 95_test_vectors.md, the examples of the rules,
or a hand calculation from a rule, named in the test's comment. The second half holds the witnesses of the obligations' hypotheses.
Times are below 2^18, so that they fit in `now_us` at every admitted width. -/

namespace Sys2Proof.Tests

open Sys2Proof Sys2Proof.Machine

/-! ## Helpers -/

/-- The outcome is a next state with the property. -/
def answers (r : Host.Outcome State Fault Refusal) (p : State → Bool) : Bool :=
  match r with
  | .next t => p t
  | .fault _ => false
  | .refused _ => false

/-- The outcome is this fault. -/
def faultsWith (r : Host.Outcome State Fault Refusal) (f : Fault) : Bool :=
  match r with
  | .next _ => false
  | .fault e => e == f
  | .refused _ => false

/-- The inputs with strobe word `w` at time 0. -/
def strobe (w : StrobeWord) : Inputs := Inputs.ofStrobes w 0

/-- The inputs with strobe word `w` at time `t`. -/
def strobeAt (w : StrobeWord) (t : Nat) : Inputs := Inputs.ofStrobes w (BitVec.ofNat Config.timeWidth t)

/-- The reset state with the inputs of its next step laid out. -/
def fresh (w : StrobeWord) : State := State.reset.present [strobe w]

/-- A frame of digit `d` in progress at position `p`, with the inputs of the next step laid out. -/
def running (d : Digit) (p : Position) (w : StrobeWord) : State :=
  { State.reset with busy := true, pos := p, dig := d, stim := [strobe w] }

/-- The test table TG1: cell `i` of digit `d` is lit exactly when `i = d`. -/
def tg1 : GlyphTable := fun d i => decide (i.val = d.val)

/-- The test table TG3: the left column of every digit is lit. -/
def tg3 : GlyphTable := fun _ i => decide (i.val % 5 = 0)

/-- A time below 2^18 is what it says at every admitted width (R7). -/
theorem time_toNat {n : Nat} (h : n < 262144) : (BitVec.ofNat Config.timeWidth n).toNat = n := by
  have hw : (262144 : Nat) ≤ 2 ^ Config.timeWidth :=
    Nat.pow_le_pow_right (n := 2) (by decide) (Nat.le_add_right 18 Config.extraTimeWidth)
  rw [BitVec.toNat_ofNat]
  exact Nat.mod_eq_of_lt (Nat.lt_of_lt_of_le h hw)

/-- The time at the port, for a time below 2^18. -/
theorem strobeAt_time (w : StrobeWord) {n : Nat} (h : n < 262144) : (strobeAt w n).nowUs.toNat = n := time_toNat h

/-! ## Decoding: words written out bit by bit from R61's patterns -/

/-- Pattern `1-----`. -/
theorem test_decode_reset : selected 0b100000 = [.reset] ∧ selected 0b111111 = [.reset] := by decide

/-- Pattern `01----`. -/
theorem test_decode_edge_a : selected 0b010000 = [.edgeA, .seqIdle] := by decide

/-- Pattern `0-1---`. -/
theorem test_decode_edge_b : selected 0b001000 = [.edgeB, .seqIdle] := by decide

/-- Pattern `0--1-0`. -/
theorem test_decode_frame_start : selected 0b000110 = [.frameStart] := by decide

/-- Pattern `0--1-1`. -/
theorem test_decode_frame_start_ignored : selected 0b000101 = [.frameStartIgnored, .pixelHold] := by decide

/-- Pattern `0---11`. -/
theorem test_decode_pixel_transfer : selected 0b000011 = [.pixelTransfer] := by decide

/-- Pattern `0---01`. -/
theorem test_decode_pixel_hold : selected 0b000001 = [.pixelHold] := by decide

/-- Pattern `0--0-0`. -/
theorem test_decode_seq_idle : selected 0b000000 = [.seqIdle] ∧ selected 0b000010 = [.seqIdle] := by decide

/-- Several operations of one step (R61, R62). -/
theorem test_decode_together : selected 0b011111 = [.edgeA, .edgeB, .frameStartIgnored, .pixelTransfer] := by decide

/-- The encodings of R73's examples: `STEP A`, `STEP READY`, `STEP RST`, `STEP A B`. -/
theorem test_strobe_words :
    (encodeStep 0 [.a]).1 = 0x08 ∧ (encodeStep 0 [.ready]).1 = 0x01 ∧ (encodeStep 0 [.rst]).1 = 0x10 ∧
    (encodeStep 0 [.a, .b]).1 = 0x0C := by decide

theorem test_strobe_digits : strobeDigits 0x1F = ['1', 'F'] ∧ strobeDigits 0x08 = ['0', '8'] := by decide

theorem test_table_word_refused : decodeTableWord 8 0x40 = none ∧ decodeTableWord 8 0x80 = none := by decide

/-! ## Scripts (R71, R72) -/

/-- The first lines of program P1 of 95_test_vectors.md, with a label, a comment and a hexadecimal number. -/
theorem test_read_script :
    readScript "P1: RESET now=0 ; power on\nPRESS_A 0x10\n\nSTEP now=20 START\nDRAIN 25\n".toList =
      some [{ label := some "P1".toList, stmt := some (.reset (some 0)) }, { label := none, stmt := some (.pressA 16) },
        { label := none, stmt := none }, { label := none, stmt := some (.step [.now 20, .start]) },
        { label := none, stmt := some (.drain 25) }] := by decide

/-- A count is read as a `number`: hexadecimal digits and 0 are accepted, which is the model's choice (log 10). -/
theorem test_read_script_count :
    readScript "IDLE 0x10\nSTALL 0\n".toList =
      some [{ label := none, stmt := some (.idle 16) }, { label := none, stmt := some (.stall 0) }] := by decide

theorem test_read_script_refused :
    readScript "STEP X\n".toList = none ∧ readScript "IDLE 3".toList = none ∧ readScript "PRESS_A 0x\n".toList = none := by
  decide

/-- FRAME is `STEP START` and then 25 steps with READY. -/
theorem test_frame_expansion :
    (scriptInputs 0 [.frame]).map Inputs.strobes = 0x02 :: List.replicate 25 0x01 := by decide

/-! ## Well-formedness: an ill-formed term for each check -/

theorem test_wellFormed_set : Instr.wellFormedSet [.edgeA, .edgeB, .frameStartIgnored, .pixelHold] = true := by decide

theorem test_illFormed_order :
    Instr.rising [.edgeB, .edgeA, .seqIdle] = false ∧ Instr.wellFormedSet [.edgeB, .edgeA, .seqIdle] = false := by decide

theorem test_illFormed_reset_with_edge :
    Instr.resetAlone [.reset, .edgeA] = false ∧ Instr.wellFormedSet [.reset, .edgeA] = false := by decide

theorem test_illFormed_no_sequencer :
    Instr.oneSequencer [.edgeA] = false ∧ Instr.wellFormedSet [.edgeA] = false := by decide

theorem test_illFormed_two_sequencers :
    Instr.oneSequencer [.frameStart, .pixelHold] = false ∧ Instr.wellFormedSet [.frameStart, .pixelHold] = false := by decide

theorem test_illFormed_ignored_while_idle :
    Instr.ignoredWhileBusy [.frameStartIgnored, .seqIdle] = false ∧
    Instr.wellFormedSet [.frameStartIgnored, .seqIdle] = false := by decide

theorem test_illFormed_time : Stmt.wellFormed 18 (.pressA 262144) = false ∧ Stmt.wellFormed 18 (.pressA 262143) = true := by
  decide

theorem test_illFormed_two_times : Stmt.wellFormed 18 (.step [.now 1, .a, .now 2]) = false := by decide

theorem test_illFormed_width : Config.admitsTimeWidth 17 = false ∧ Config.admitsTimeWidth 18 = true := by decide

/-! ## The renderer's units (95_test_vectors.md, L2) -/

/-- R81's full table. -/
theorem test_mirror_table :
    (List.range 25).map (fun p => mirror (BitVec.ofNat 5 p)) =
      ([4, 3, 2, 1, 0, 9, 8, 7, 6, 5, 14, 13, 12, 11, 10, 19, 18, 17, 16, 15, 24, 23, 22, 21, 20] : List Position).map
        Except.ok := by decide

/-- `MIRROR(25)` faults. -/
theorem test_mirror_fault : mirror 25 = .error (.posRange 25) := by decide

/-- The ENCODE table, rows 001, 010, 100 and 111. -/
theorem test_encode :
    encodeColor false false true = 0x00000200 ∧ encodeColor false true false = 0x02000000 ∧
    encodeColor true false false = 0x00020000 ∧ encodeColor true true true = 0x02020200 := by
  decide

/-- The ENC_CHANNEL reference at 0.3921, 0.5 and 0.8. -/
theorem test_enc_channel_exact :
    (encChannelExact ⟨3921 / 10000, by norm_num, by norm_num⟩).toNat = 0 ∧
    (encChannelExact ⟨1 / 2, by norm_num, by norm_num⟩).toNat = 1 ∧
    (encChannelExact ⟨4 / 5, by norm_num, by norm_num⟩).toNat = 2 := by
  refine ⟨?_, ?_, ?_⟩ <;> rw [encChannelExact_eq_iff] <;> norm_num

/-- Under TG1 digit 1 lights position 3 only, and digit 5 position 9 (the PIXEL table). -/
theorem test_pixel_tg1 :
    pixel tg1 1 3 = .ok 0x02020200 ∧ pixel tg1 1 1 = .ok 0 ∧ pixel tg1 5 9 = .ok 0x02020200 := by
  refine ⟨?_, ?_, ?_⟩ <;> rw [pixel_of_le _ (by decide) (by decide) (by decide)] <;> rfl

/-- Under TG3 the left glyph column appears at physical column 4. -/
theorem test_pixel_tg3 : pixel tg3 7 14 = .ok 0x02020200 ∧ pixel tg3 7 10 = .ok 0 := by
  refine ⟨?_, ?_⟩ <;> rw [pixel_of_le _ (by decide) (by decide) (by decide)] <;> rfl

/-- The faults of the L2 section; the position is checked first. -/
theorem test_unit_faults :
    glyphLookup tg1 10 0 = .error (.digitRange 10) ∧ pixel tg1 10 25 = .error (.posRange 25) ∧
    memReadGrom tg1 250 = .error (.gromRange 250) ∧ memReadGrom tg1 (-1) = .error (.gromRange (-1)) := by decide

theorem test_fault_codes :
    (Fault.digitRange 10).code = 1 ∧ (Fault.posRange 25).code = 2 ∧ (Fault.gromRange 250).code = 3 := by decide

/-- Vectors L2-D1 to L2-D5, and both draws of L2-D6. -/
theorem test_accept :
    accept 0 0 true = false ∧ accept 200000 0 true = false ∧ accept 200001 0 false = true ∧
    accept 400001 200001 true = false ∧ accept 400002 200001 false = true ∧ accept 5 10 true = true ∧
    accept 5 10 false = false := by decide

/-! ## Operations and steps -/

/-- L2-R1: all registers 0, no word, no edge. -/
theorem test_reset :
    answers (step { State.reset with cnt := 7, busy := true, pos := 12, dig := 7, stim := [strobe 0x1F] })
      (fun t => t.cnt == 0 && !t.busy && t.pos == 0 && t.dig == 0 && !t.out.pixValid && t.sink == []) := by decide

/-- R116, R154: an edge at 200000 after reset is rejected and changes nothing. -/
theorem test_edge_a_early : exec .edgeA { State.reset with inp := strobeAt 0x08 200000 } =
    .next { State.reset with inp := strobeAt 0x08 200000 } := by
  have ha : ({ State.reset with inp := strobeAt 0x08 200000 } : State).acceptsA = false := by
    show accept (strobeAt 0x08 200000).nowUs.toNat 0 _ = false
    rw [strobeAt_time _ (by decide)]
    rfl
  rw [exec_edgeA, State.edgeA, if_neg (Bool.eq_false_iff.1 ha)]

/-- R111: an accepted edge at CNT = 9 wraps to 0 and takes the time (as L2-D8, at 250000). -/
theorem test_edge_a_wraps : exec .edgeA { State.reset with cnt := 9, inp := strobeAt 0x08 250000 } =
    .next { State.reset with cnt := 0, tsa := BitVec.ofNat _ 250000, inp := strobeAt 0x08 250000 } := by
  have ha : ({ State.reset with cnt := 9, inp := strobeAt 0x08 250000 } : State).acceptsA = true := by
    show accept (strobeAt 0x08 250000).nowUs.toNat 0 _ = true
    rw [strobeAt_time _ (by decide)]
    rfl
  rw [exec_edgeA, State.edgeA, if_pos ha]
  rfl

/-- L2-D9: CNT = 0, B at 250000 gives CNT = 9, TSB = 250000. -/
theorem test_edge_b_wraps : exec .edgeB { State.reset with inp := strobeAt 0x04 250000 } =
    .next { State.reset with cnt := 9, tsb := BitVec.ofNat _ 250000, inp := strobeAt 0x04 250000 } := by
  have hb : ({ State.reset with inp := strobeAt 0x04 250000 } : State).acceptsB = true := by
    show accept (strobeAt 0x04 250000).nowUs.toNat 0 _ = true
    rw [strobeAt_time _ (by decide)]
    rfl
  rw [exec_edgeB, State.edgeB, if_pos hb]
  rfl

/-- R112: a B edge whose gap is exactly 200000 is rejected and changes nothing. -/
theorem test_edge_b_gap_equal_window :
    exec .edgeB { State.reset with tsb := BitVec.ofNat _ 50000, inp := strobeAt 0x04 250000 } =
      .next { State.reset with tsb := BitVec.ofNat _ 50000, inp := strobeAt 0x04 250000 } := by
  have hb : ({ State.reset with tsb := BitVec.ofNat _ 50000, inp := strobeAt 0x04 250000 } : State).acceptsB = false := by
    show accept (strobeAt 0x04 250000).nowUs.toNat (BitVec.ofNat Config.timeWidth 50000).toNat _ = false
    rw [strobeAt_time _ (by decide), time_toNat (by decide)]
    rfl
  rw [exec_edgeB, State.edgeB, if_neg (Bool.eq_false_iff.1 hb)]

/-- L2-S1, and R86's example with CNT = 1. -/
theorem test_frame_start :
    answers (step { fresh 0x02 with cnt := 1 })
      (fun t => t.busy && t.pos == 0 && t.dig == 1 && t.sink == [] && !t.out.pixValid) := by decide

/-- R22: a frame start that reads a counter of 12 faults. -/
theorem test_frame_start_fault : faultsWith (step { fresh 0x02 with cnt := 12 }) (.digitRange 12) := by decide

/-- L2-S5: a request while busy changes nothing and pushes nothing. -/
theorem test_frame_start_ignored :
    answers (step (running 1 7 0x02)) (fun t => t.busy && t.pos == 7 && t.dig == 1 && t.sink == [] && t.out.pixValid) := by
  decide

/-- L2-S2: a transfer at position 0 pushes one word and advances. -/
theorem test_pixel_transfer :
    answers (step (running 1 0 0x01)) (fun t => t.busy && t.pos == 1 && t.dig == 1 && t.sink.length == 1) := by decide

/-- L2-S3: the transfer at position 24 ends the frame and keeps DIG. -/
theorem test_pixel_transfer_last :
    answers (step (running 1 24 0x01)) (fun t => !t.busy && t.pos == 0 && t.dig == 1 && t.sink.length == 1) := by decide

/-- L2-S4: a hold changes nothing. -/
theorem test_pixel_hold :
    answers (step (running 1 5 0x00)) (fun t => t.busy && t.pos == 5 && t.dig == 1 && t.sink == [] && t.out.pixValid) := by
  decide

/-- L2-S6: idle, the sink's readiness is ignored. -/
theorem test_seq_idle :
    answers (step (fresh 0x01)) (fun t => !t.busy && t.pos == 0 && t.sink == [] && !t.out.pixValid && t.out.pixData == 0) := by
  decide

/-- Each row's word, placed as the first step after reset, runs. -/
theorem test_placed_words_run :
    [0x20, 0x10, 0x08, 0x04, 0x05, 0x03, 0x01, 0x00].all
      (fun w => answers (step (State.reset.withFetchWord 8 w)) (fun t => t.tick == 1)) := by decide

/-! ## Witnesses: states and operands that meet the obligations' hypotheses -/

theorem witness_EveryDecodeWordIsDefined :
    (0x20 : DecodeWord).getLsbD 5 = true ∧ (0x1F : DecodeWord).getLsbD 5 = false ∧
    (fresh 0x08).Legal ∧ (fresh 0x08).decodeWord = 0x10 := by decide

theorem witness_EncodedOperationDecodesToItself : Instr.edgeA ∈ selected 0x1F := by decide

theorem witness_WellFormedSetsAreTheDecodedOnes :
    Instr.wellFormedSet [.edgeA, .pixelHold] = true ∧ decode [0x11, 0x00] = .ok ([.edgeA, .pixelHold], [0x00]) :=
  ⟨by decide, rfl⟩

theorem witness_DecoderRefusesByName :
    (0x80 : Byte).getLsbD 7 = true ∧ (0x40 : Byte).getLsbD 6 = true ∧
    ((0x3F : Byte).getLsbD 7 = false ∧ (0x3F : Byte).getLsbD 6 = false) := by decide

theorem witness_StepStatementInputs :
    Stmt.times [.a, .ready] = [] ∧ Stmt.times [.a, .now 7, .b] = [7] ∧ 7 < 2 ^ Config.timeWidth :=
  ⟨rfl, rfl, Nat.lt_of_lt_of_le (by decide) (Nat.pow_le_pow_right (n := 2) (by decide) (Nat.le_add_right 18 Config.extraTimeWidth))⟩

/-- A script of two steps. -/
theorem witness_LoadedScriptDrivesTheSteps :
    State.reset.Legal ∧ 1 < (scriptInputs State.reset.inp.nowUs [.pressA 300000, .step [.ready]]).length := by decide

/-- Outputs that cannot be formed, and outputs that can; a step of one operation that completes, and one that faults. -/
theorem witness_StepPerformsTheDecodedOperations :
    (running 1 25 0x00).outputs false = .error (.posRange 25) ∧
    (fresh 0x01).outputs false = .ok { pixValid := false, pixData := 0, busy := false, cntOut := 0 } ∧
    selected (fresh 0x01).decodeWord = [.seqIdle] ∧
    answers (exec .seqIdle ((fresh 0x01).openStep { pixValid := false, pixData := 0, busy := false, cntOut := 0 }))
      (fun _ => true) = true ∧
    selected { fresh 0x02 with cnt := 12 }.decodeWord = [.frameStart] ∧
    faultsWith (exec .frameStart
      ({ fresh 0x02 with cnt := 12 }.openStep { pixValid := false, pixData := 0, busy := false, cntOut := 12 }))
      (.digitRange 12) = true := by
  refine ⟨rfl, rfl, by decide, by decide, by decide, by decide⟩

theorem witness_PlacedWordIsTheNextDecodeWord :
    (State.reset.withFetchWord 8 63).decodeWord = 63 ∧ (63 : Nat) < 64 := by decide

theorem witness_ResetDominatesTheStep :
    (fresh 0x1F).nextInputs.rst = true ∧
    (fresh 0x1F).outputs true = .ok { pixValid := false, pixData := 0, busy := false, cntOut := 0 } := ⟨by decide, rfl⟩

/-- A step that resets in a state whose registers are not those of reset. -/
theorem witness_OutputsAfterReset :
    (running 3 7 0x10).nextInputs.rst = true ∧ ∃ t, step (running 3 7 0x10) = .next t :=
  ⟨by decide, _, rfl⟩

theorem witness_ComparatorIsStrict : (200000 : Nat) ≤ 400000 ∧ (5 : Nat) < 10 := by decide

theorem witness_EdgeACompletes : Instr.edgeA ∈ selected (fresh 0x0C).decodeWord := by decide

theorem witness_EdgeBCompletes : Instr.edgeB ∈ selected (fresh 0x0C).decodeWord := by decide

/-- Both edges in one step; at time 0 after reset neither is accepted. -/
theorem witness_EdgesOfOneStepCommute :
    (fresh 0x0C).nextInputs.rst = false ∧ (fresh 0x0C).nextInputs.edgeA = true ∧ (fresh 0x0C).nextInputs.edgeB = true ∧
    (fresh 0x0C).cnt.toNat ≤ 9 ∧ (fresh 0x0C).acceptsA = (fresh 0x0C).acceptsB := by decide

/-- Two edges, an early one and an accepted one, laid out from reset. -/
def twoEdges (w : StrobeWord) : List Inputs := [strobeAt w 100, strobeAt w 200001]

theorem witness_CounterCountsAcceptedEdges :
    (State.reset.present (twoEdges 0x08)).Legal ∧
    (State.reset.present (twoEdges 0x08)).Receives (twoEdges 0x08) ∧ NoReset (twoEdges 0x08) ∧
    State.reset.cnt = 0 := by
  refine ⟨by decide, List.prefix_append _ _, ?_, rfl⟩
  intro i hi
  simp only [twoEdges, List.mem_cons, List.not_mem_nil, or_false] at hi
  rcases hi with rfl | rfl <;> rfl

/-- No B edge is accepted where none is presented, and no A edge likewise. -/
theorem witness_CounterCountsAcceptedEdges_counts :
    (State.reset.present [strobe 0x08]).acceptedB 1 = 0 ∧ (State.reset.present [strobe 0x04]).acceptedA 1 = 0 := by
  constructor <;> rfl

theorem witness_DebounceLaw :
    (State.reset.present (twoEdges 0x08)).Legal ∧
    (State.reset.present (twoEdges 0x08)).Receives (twoEdges 0x08) ∧ NoReset (twoEdges 0x08) ∧
    ((twoEdges 0x08).filter (·.edgeA)).Pairwise (fun i j => i.nowUs.toNat ≤ j.nowUs.toNat) ∧
    (∀ i ∈ twoEdges 0x08, i.edgeA = true → State.reset.tsa.toNat ≤ i.nowUs.toNat) := by
  refine ⟨by decide, List.prefix_append _ _, witness_CounterCountsAcceptedEdges.2.2.1, ?_, fun i _ _ => Nat.zero_le _⟩
  have hf : (twoEdges 0x08).filter (·.edgeA) = [strobeAt 0x08 100, strobeAt 0x08 200001] := rfl
  rw [hf]
  simp [strobeAt_time]

theorem witness_DebounceLaw_buttonB :
    (State.reset.present (twoEdges 0x04)).Legal ∧
    (State.reset.present (twoEdges 0x04)).Receives (twoEdges 0x04) ∧ NoReset (twoEdges 0x04) ∧
    ((twoEdges 0x04).filter (·.edgeB)).Pairwise (fun i j => i.nowUs.toNat ≤ j.nowUs.toNat) ∧
    (∀ i ∈ twoEdges 0x04, i.edgeB = true → State.reset.tsb.toNat ≤ i.nowUs.toNat) := by
  have hf : (twoEdges 0x04).filter (·.edgeB) = [strobeAt 0x04 100, strobeAt 0x04 200001] := rfl
  refine ⟨by decide, List.prefix_append _ _, ?_, ?_, fun i _ _ => Nat.zero_le _⟩
  · intro i hi
    simp only [twoEdges, List.mem_cons, List.not_mem_nil, or_false] at hi
    rcases hi with rfl | rfl <;> rfl
  · rw [hf]; simp [strobeAt_time]

/-- The second clause of the debounce law, for both buttons: the edge at time 100 finds TSA = TSB = 0. -/
theorem witness_DebounceLaw_dropped_edge :
    (State.reset.present (twoEdges 0x0C)).run 0 = .next (State.reset.present (twoEdges 0x0C)) ∧
    (State.reset.present (twoEdges 0x0C)).nextInputs.edgeA = true ∧
    (State.reset.present (twoEdges 0x0C)).nextInputs.edgeB = true ∧
    (State.reset.present (twoEdges 0x0C)).nextInputs.nowUs.toNat ≤ State.reset.tsa.toNat + 200000 := by
  have h1 : (strobeAt 0x0C 100).nowUs.toNat = 100 := time_toNat (by decide)
  refine ⟨rfl, rfl, rfl, ?_⟩
  show (strobeAt 0x0C 100).nowUs.toNat ≤ _
  rw [h1]
  omega

/-- Steps with the strobe word `w` at time 0 and at the window's edge. -/
def windowEdges (w : StrobeWord) : List Inputs := [strobe w, strobeAt w 200000]

theorem windowEdges_times (w : StrobeWord) : ∀ i ∈ windowEdges w, 0 ≤ i.nowUs.toNat ∧ i.nowUs.toNat ≤ 0 + 200000 := by
  intro i hi
  simp only [windowEdges, List.mem_cons, List.not_mem_nil, or_false] at hi
  rcases hi with rfl | rfl
  · exact ⟨Nat.zero_le _, Nat.le_trans (Nat.le_of_eq (time_toNat (n := 0) (by decide))) (by decide)⟩
  · exact ⟨Nat.zero_le _, Nat.le_of_eq (strobeAt_time w (by decide))⟩

/-- Bounce trains on both buttons at once, on A alone and on B alone. -/
theorem witness_BounceTrainIsDropped :
    (∀ w ∈ [0x0C, 0x08, 0x04], (State.reset.present (windowEdges w)).Legal ∧
      (State.reset.present (windowEdges w)).Receives (windowEdges w) ∧ NoReset (windowEdges w) ∧
      (∀ i ∈ windowEdges w, i.edgeA = true →
        State.reset.tsa.toNat ≤ i.nowUs.toNat ∧ i.nowUs.toNat ≤ State.reset.tsa.toNat + 200000) ∧
      ∀ i ∈ windowEdges w, i.edgeB = true →
        State.reset.tsb.toNat ≤ i.nowUs.toNat ∧ i.nowUs.toNat ≤ State.reset.tsb.toNat + 200000) ∧
    (∀ i ∈ windowEdges 0x08, i.edgeA = true ∧ i.edgeB = false) ∧
    ∀ i ∈ windowEdges 0x04, i.edgeA = false ∧ i.edgeB = true := by
  have ha : State.reset.tsa.toNat = 0 := by decide
  have hb : State.reset.tsb.toNat = 0 := by decide
  refine ⟨fun w hw => ⟨(by decide : State.reset.Legal), List.prefix_append _ _, ?_, ?_, ?_⟩, ?_, ?_⟩
  · intro i hi
    simp only [List.mem_cons, List.not_mem_nil, or_false] at hw
    simp only [windowEdges, List.mem_cons, List.not_mem_nil, or_false] at hi
    rcases hw with rfl | rfl | rfl <;> rcases hi with rfl | rfl <;> rfl
  · intro i hi _; rw [ha]; exact windowEdges_times w i hi
  · intro i hi _; rw [hb]; exact windowEdges_times w i hi
  all_goals
    intro i hi
    simp only [windowEdges, List.mem_cons, List.not_mem_nil, or_false] at hi
    rcases hi with rfl | rfl <;> exact ⟨rfl, rfl⟩

/-- One edge on each button just past the window. -/
theorem witness_SpacedTrainIsAccepted :
    (State.reset.present [strobeAt 0x0C 200001]).Legal ∧
    (State.reset.present [strobeAt 0x0C 200001]).Receives [strobeAt 0x0C 200001] ∧ NoReset [strobeAt 0x0C 200001] ∧
    ([strobeAt 0x0C 200001].filter (·.edgeA)) = [strobeAt 0x0C 200001] ∧
    ([strobeAt 0x0C 200001].filter (·.edgeB)) = [strobeAt 0x0C 200001] ∧
    (State.reset.tsa.toNat :: [strobeAt 0x0C 200001].map (·.nowUs.toNat)).IsChain (fun x y => x + 200000 < y) ∧
    (State.reset.tsb.toNat :: [strobeAt 0x0C 200001].map (·.nowUs.toNat)).IsChain (fun x y => x + 200000 < y) := by
  have ha : State.reset.tsa.toNat = 0 := by decide
  have hb : State.reset.tsb.toNat = 0 := by decide
  refine ⟨by decide, List.prefix_append _ _, ?_, rfl, rfl, ?_, ?_⟩
  · intro i hi
    rw [List.mem_singleton] at hi
    subst hi; rfl
  · simp [ha, strobeAt_time]
  · simp [hb, strobeAt_time]

/-- The clauses of the debounce law about one step: a legal state, an edge on each button, a time not before the timestamps. -/
theorem witness_DebounceLaw_step :
    (fresh 0x0C).Legal ∧ (fresh 0x0C).nextInputs.rst = false ∧ (fresh 0x0C).nextInputs.edgeA = true ∧
    (fresh 0x0C).nextInputs.edgeB = true ∧ (fresh 0x0C).tsa.toNat ≤ (fresh 0x0C).nextInputs.nowUs.toNat ∧
    (fresh 0x0C).tsb.toNat ≤ (fresh 0x0C).nextInputs.nowUs.toNat := by decide

/-- Edge A alone, edge B alone, and neither, each from a state with both timestamps at 0. -/
theorem witness_FirstEdgeAfterReset :
    (fresh 0x08).Legal ∧ (fresh 0x08).nextInputs.rst = false ∧ (fresh 0x08).tsa = 0 ∧ (fresh 0x08).tsb = 0 ∧
    (fresh 0x08).nextInputs.edgeA = true ∧ (fresh 0x08).nextInputs.edgeB = false ∧
    (fresh 0x04).Legal ∧ (fresh 0x04).nextInputs.edgeB = true ∧ (fresh 0x04).nextInputs.edgeA = false ∧
    (fresh 0x10).nextInputs.rst = true := by decide

theorem witness_FirstEdgeAfterReset_reset : ∃ t, step (fresh 0x10) = .next t := ⟨_, rfl⟩

/-- A time before both timestamps: now 0, timestamps 5. -/
theorem witness_ClockWrapHasTwoOutcomes :
    ({ State.reset with tsa := BitVec.ofNat _ 5, tsb := BitVec.ofNat _ 5 } : State).inp.nowUs.toNat <
      ({ State.reset with tsa := BitVec.ofNat _ 5, tsb := BitVec.ofNat _ 5 } : State).tsa.toNat ∧
    ({ State.reset with tsa := BitVec.ofNat _ 5, tsb := BitVec.ofNat _ 5 } : State).inp.nowUs.toNat <
      ({ State.reset with tsa := BitVec.ofNat _ 5, tsb := BitVec.ofNat _ 5 } : State).tsb.toNat := by
  have h : (0 : Nat) < (BitVec.ofNat Config.timeWidth 5).toNat := by rw [time_toNat (by decide)]; decide
  exact ⟨h, h⟩

/-- Two states that differ in the sequencer only, and their steps. -/
theorem witness_DebounceIgnoresTheSequencer :
    (fresh 0x08).nextInputs = (running 1 7 0x08).nextInputs ∧ (fresh 0x08).cnt = (running 1 7 0x08).cnt ∧
    (fresh 0x08).tsa = (running 1 7 0x08).tsa ∧ (fresh 0x08).tsb = (running 1 7 0x08).tsb ∧
    (fresh 0x08).tick = (running 1 7 0x08).tick ∧ (∃ t, step (fresh 0x08) = .next t) ∧
    ∃ t, step (running 1 7 0x08) = .next t :=
  ⟨rfl, rfl, rfl, rfl, rfl, ⟨_, rfl⟩, ⟨_, rfl⟩⟩

/-- The addresses at both ends of the glyph ROM and just outside it. -/
theorem witness_GlyphRomRead :
    ((0 : Int) ≤ 0 ∧ (0 : Int) ≤ 249) ∧ ((0 : Int) ≤ 249 ∧ (249 : Int) ≤ 249) ∧ (-1 : Int) < 0 ∧ (250 : Int) > 249 := by
  decide

/-- Digits and indices at both ends of each clause. -/
theorem witness_GlyphLookupResult :
    ((9 : Digit).toNat < 10 ∧ (24 : Position).toNat < 25) ∧ 9 < (10 : Digit).toNat ∧
    ((9 : Digit).toNat ≤ 9 ∧ 24 < (25 : Position).toNat) := by decide

theorem witness_MirrorReversesColumns : (24 : Position).toNat ≤ 24 ∧ 24 < (25 : Position).toNat := by decide

theorem witness_MirrorIsAnInvolution : (24 : Position).toNat ≤ 24 ∧ mirror 24 = .ok 20 := by decide

/-- Two intensities in order, and a lawful function. -/
theorem witness_EncChannelLaws : Intensity.dark.val ≤ Intensity.full.val ∧ LawfulEnc encChannelExact :=
  ⟨zero_le_one, lawful_encChannelExact⟩

theorem witness_PixelWord :
    ((9 : Digit).toNat < 10 ∧ (24 : Position).toNat < 25 ∧
      5 * ((24 : Position).toNat / 5) + (4 - (24 : Position).toNat % 5) < 25) ∧
    24 < (25 : Position).toNat ∧ ((24 : Position).toNat ≤ 24 ∧ 9 < (10 : Digit).toNat) := by decide

theorem witness_TimeWidthHoldsTheWindow : (17 : Nat) < 18 ∧ (18 : Nat) ≤ 18 := by decide

/-- Before and after an update: CNT 9 at the start of the step, 0 now. -/
theorem witness_FrameStartCompletes :
    ({ State.reset with cntPre := 9, cnt := 0 } : State).cntPre.toNat ≤ 9 ∧
    ({ State.reset with cntPre := 9, cnt := 0 } : State).cnt.toNat ≤ 9 := by decide

theorem witness_FrameStartFaultsOnIllegalCounter :
    ({ State.reset with cntPre := 10, cnt := 10 } : State).cntPre = ({ State.reset with cntPre := 10, cnt := 10 } : State).cnt ∧
    9 < ({ State.reset with cntPre := 10, cnt := 10 } : State).cnt.toNat := by decide

/-- A frame start together with an A edge, and neither edge accepted. -/
theorem witness_CounterReadIsNotTorn :
    (fresh 0x0A).Legal ∧ (fresh 0x0A).busy = false ∧ (fresh 0x0A).nextInputs.rst = false ∧
    (fresh 0x0A).nextInputs.frameStart = true ∧ (fresh 0x0A).takesA = false ∧ (fresh 0x0A).takesB = false := by decide

theorem witness_RequestWhileBusyIsIgnored : (running 9 24 0x01).Legal ∧ (running 9 24 0x01).busy = true := by decide

theorem witness_PixelTransferCompletes :
    ((running 9 24 0x01).dig.toNat ≤ 9 ∧ (running 9 24 0x01).pos.toNat ≤ 24 ∧ (running 9 24 0x01).busy = true) ∧
    24 < (running 9 25 0x01).pos.toNat ∧ ((running 10 24 0x01).pos.toNat ≤ 24 ∧ 9 < (running 10 24 0x01).dig.toNat) := by
  decide

/-- A frame in progress and none. -/
theorem witness_TransferExactlyOnHandshake :
    (running 9 24 0x01).Legal ∧ (running 9 24 0x01).busy = true ∧ (fresh 0x01).Legal ∧ (fresh 0x01).busy = false := by decide

/-- A held word, a moving position and a changing digit. -/
theorem witness_OfferedWordIsStable :
    ((running 1 5 0x00).Legal ∧ (running 1 5 0x00).nextInputs.rst = false ∧ (running 1 5 0x00).busy = true ∧
      (running 1 5 0x00).nextInputs.pixReady = false) ∧
    answers (step (running 1 5 0x01)) (fun t => t.pos != 5) = true ∧
    answers (step { fresh 0x02 with cnt := 3 }) (fun t => t.dig != 0) = true := by decide

/-- Operations that change what they may change. -/
theorem witness_SingleWriterPerRegister :
    answers (exec .reset (running 1 7 0x00)) (fun t => t.busy != true && t.pos != 7 && t.dig != 1) = true ∧
    answers (exec .pixelTransfer (running 1 7 0x00)) (fun t => t.sink.length != 0 && t.pos != 7) = true ∧
    answers (exec .frameStart { State.reset with cnt := 3, cntPre := 3 }) (fun t => t.busy != false && t.dig != 0) = true := by
  decide

/-- The edges change CNT, TSA and TSB: the tests of EDGE_A and EDGE_B, on their fields. -/
theorem witness_SingleWriterPerRegister_edges :
    (∃ s t, exec .edgeA s = .next t ∧ t.cnt ≠ s.cnt) ∧ ∃ s t, exec .edgeB s = .next t ∧ t.cnt ≠ s.cnt :=
  ⟨⟨_, _, test_edge_a_wraps, by decide⟩, ⟨_, _, test_edge_b_wraps, by decide⟩⟩

/-- A frame start and then 25 steps that find the sink ready. -/
def wholeFrame : List Inputs := List.replicate 25 (strobe 0x01)

theorem witness_FrameDeliversTwentyFiveWords :
    (State.reset.present (strobe 0x02 :: wholeFrame)).Legal ∧
    (State.reset.present (strobe 0x02 :: wholeFrame)).busy = false ∧
    (State.reset.present (strobe 0x02 :: wholeFrame)).Receives (strobe 0x02 :: wholeFrame) ∧
    NoReset (strobe 0x02 :: wholeFrame) ∧ (strobe 0x02).frameStart = true ∧ readyCount wholeFrame.dropLast < 25 ∧
    readyCount wholeFrame = 25 ∧ readyCount wholeFrame.dropLast.dropLast < 25 := by
  refine ⟨by decide, rfl, List.prefix_append _ _, ?_, rfl, by decide, by decide, by decide⟩
  intro i hi
  simp only [wholeFrame, List.mem_cons, List.mem_replicate] at hi
  rcases hi with rfl | ⟨-, rfl⟩ <;> rfl

theorem witness_StallHasNoTimeout :
    (running 1 5 0x00).Legal ∧ (running 1 5 0x00).busy = true ∧ (running 1 5 0x00).Receives [strobe 0x00] ∧
    NoReset [strobe 0x00] ∧ ∀ i ∈ [strobe 0x00], i.pixReady = false := by
  refine ⟨by decide, rfl, List.prefix_rfl, ?_, ?_⟩ <;> intro i hi <;>
    simp only [List.mem_cons, List.not_mem_nil, or_false] at hi <;> subst hi <;> rfl

/-- Two states that differ in the debounce half only, and their steps. -/
theorem witness_SequencerIgnoresDebounce :
    (running 1 7 0x01).nextInputs = { running 1 7 0x01 with cnt := 5 }.nextInputs ∧
    (∃ t, step (running 1 7 0x01) = .next t) ∧ (∃ t, step { running 1 7 0x01 with cnt := 5 } = .next t) ∧
    (running 1 7 0x01).busy = true ∧ (fresh 0x01).nextInputs.frameStart = false :=
  ⟨rfl, ⟨_, rfl⟩, ⟨_, rfl⟩, rfl, rfl⟩

theorem witness_StepKeepsLegal : (running 9 24 0x01).Legal ∧ ∃ t, step (running 9 24 0x01) = .next t :=
  ⟨by decide, _, rfl⟩

theorem witness_StepKeepsSinkLegal :
    ({ running 1 7 0x01 with sink := [Config.litWord, 0] } : State).SinkLegal ∧
    ∃ t, step { running 1 7 0x01 with sink := [Config.litWord, 0] } = .next t := by
  refine ⟨?_, _, rfl⟩
  intro w hw
  simp only [List.mem_cons, List.not_mem_nil, or_false] at hw
  rcases hw with rfl | rfl
  · exact .inr rfl
  · exact .inl rfl

theorem witness_EveryRunIsSafe : (running 9 24 0x01).Legal := by decide

/-- Each of the three faults. -/
theorem witness_StepFaultsExactly :
    faultsWith (step (running 1 25 0x10)) (.posRange 25) = true ∧
    faultsWith (step (running 10 24 0x00)) (.digitRange 10) = true ∧
    faultsWith (step { fresh 0x02 with cnt := 10 }) (.digitRange 10) = true ∧
    (running 1 25 0x10).busy = true ∧ 24 < (running 1 25 0x10).pos.toNat ∧
    (running 10 24 0x00).pos.toNat ≤ 24 ∧ 9 < (running 10 24 0x00).dig.toNat ∧
    (fresh 0x02).busy = false ∧ (fresh 0x02).nextInputs.rst = false ∧ (fresh 0x02).nextInputs.frameStart = true ∧
    (fresh 0x02).nextInputs.edgeA = false ∧ (fresh 0x02).nextInputs.edgeB = false := by decide

/-- A frame start that faults in a step whose outputs can be formed; the three clauses of the runs have the witness of
`StepFaultsExactly`. -/
theorem witness_NothingFollowsAFault :
    ({ fresh 0x02 with cnt := 10 } : State).outputs ({ fresh 0x02 with cnt := 10 } : State).nextInputs.rst =
      .ok { pixValid := false, pixData := 0, busy := false, cntOut := 10 } ∧
    step { fresh 0x02 with cnt := 10 } = .fault (.digitRange 10) := ⟨rfl, rfl⟩

end Sys2Proof.Tests
end

section
/-! PROOFS of the family 00_scope: the width of a timestamp (R6, R7). -/

namespace Sys2Proof

/-- The open part of TIME_WIDTH only adds to the least width. -/
theorem Config.minTimeWidth_le_timeWidth : Config.minTimeWidth ≤ Config.timeWidth :=
  Nat.le_add_right _ _

theorem Config.admitsTimeWidth_iff (w : Nat) : Config.admitsTimeWidth w = true ↔ Config.minTimeWidth ≤ w := by
  simp only [Config.admitsTimeWidth, decide_eq_true_eq]

/-- R7's reason for the least width: the first time past the debounce window fits in a timestamp of 18 bits, and so in a
wider one. -/
theorem Config.debounceUs_succ_lt_two_pow {w : Nat} (hw : Config.minTimeWidth ≤ w) : Config.debounceUs + 1 < 2 ^ w :=
  calc Config.debounceUs + 1 < 2 ^ Config.minTimeWidth := by decide
    _ ≤ 2 ^ w := Nat.pow_le_pow_right Nat.two_pos hw

/-- Settles O35: the configured width is at least the least one, and every such width holds the debounce window. -/
theorem timeWidthHoldsTheWindow : Obligations.TimeWidthHoldsTheWindow := by
  refine ⟨Config.minTimeWidth_le_timeWidth,
    Config.debounceUs_succ_lt_two_pow Config.minTimeWidth_le_timeWidth, fun w => ⟨fun hw => ?_, fun hw => ?_⟩⟩
  · have hmin : ¬ Config.minTimeWidth ≤ w := Nat.not_le.mpr hw
    rwa [← Config.admitsTimeWidth_iff, Bool.not_eq_true] at hmin
  · exact ⟨(Config.admitsTimeWidth_iff w).mpr hw, Config.debounceUs_succ_lt_two_pow hw⟩

end Sys2Proof
end

section
/-! PROOFS of the family 10_state: the register ranges that every step keeps (R21 to R27), the outputs and the handshake (R32, R36),
and the frame start from an illegal counter (R22, R131). -/

namespace Sys2Proof.Machine

/-! ## What each update does to a legal state -/

theorem legal_resetRegs {s : State} (h : s.cntPre.toNat ≤ 9) : s.resetRegs.Legal :=
  ⟨Nat.zero_le 9, Nat.zero_le 9, Nat.zero_le 24, fun _ => rfl, h⟩

theorem legal_debounced {s : State} {o : Outputs} (h : s.Legal) (hr : s.nextInputs.rst = false) :
    (s.debounced o).Legal := by
  obtain ⟨hcnt, hdig, hpos, hidle, -⟩ := h
  refine ⟨debounced_cnt_le hr hcnt, ?_⟩
  simpa [hdig, hpos, hcnt] using hidle

theorem legal_startFrame {s : State} {d : Digit} (h : s.Legal) (hd : d.toNat ≤ 9) : (s.startFrame d).Legal := by
  obtain ⟨hcnt, -, -, -, hpre⟩ := h
  exact ⟨hcnt, hd, Nat.zero_le 24, fun _ => rfl, hpre⟩

/-- The position stops at 24 (R88), so that the next one is still a position. -/
theorem legal_advance {s : State} (h : s.Legal) (hb : s.busy = true) : s.advance.Legal := by
  obtain ⟨hcnt, hdig, hpos, -, hpre⟩ := h
  rcases advance_cases s with ⟨-, ha⟩ | ⟨hlast, ha⟩ <;> rw [ha]
  · exact ⟨hcnt, hdig, Nat.zero_le 24, fun _ => rfl, hpre⟩
  · have hnext : (s.pos + 1).toNat ≤ 24 := by bv_omega
    exact ⟨hcnt, hdig, hnext, fun hidle => by simp [hb] at hidle, hpre⟩

/-- Settles O49: by the cases of a step, each of whose updates keeps a legal state legal. -/
theorem stepKeepsLegal : Obligations.StepKeepsLegal := by
  intro s t hs h
  have hcnt : s.cnt.toNat ≤ 9 := hs.1
  obtain ⟨o, -, ⟨-, rfl⟩ | ⟨hr, hseq⟩⟩ := step_cases h
  · exact legal_resetRegs (s := s.openStep o) hcnt
  · have hd : (s.debounced o).Legal := legal_debounced hs hr
    obtain ⟨hb, -, -, rfl⟩ | ⟨-, -, rfl⟩ | ⟨-, -, hdig, rfl⟩ | ⟨-, -, rfl⟩ := hseq
    · exact legal_advance (s := (s.debounced o).sinkPush o.pixData) hd (by simpa using hb)
    · exact hd
    · exact legal_startFrame (s := s.debounced o) hd hdig
    · exact hd

/-! ## A legal state completes its step -/

/-- Both values that a frame start may read are digits (R52). -/
theorem frameDigit_le_of_legal {s : State} (h : s.Legal) : s.frameDigit.toNat ≤ 9 := by
  obtain ⟨hcnt, -, -, -, hpre⟩ := h
  rcases drawDigit_cases s.cntPre s.cnt (Config.drawFrame s.tick s.cntPre s.cnt) with hd | hd
  · exact (congrArg BitVec.toNat hd).trans_le hpre
  · exact (congrArg BitVec.toNat hd).trans_le hcnt

/-- Only a frame start and a transfer can fault, and in a legal state neither does. -/
theorem exec_of_legal (i : Instr) {s : State} (h : s.Legal) : ∃ t, exec i s = .next t := by
  cases i with
  | frameStart =>
    rcases exec_frameStart_cases s with ⟨-, hx⟩ | ⟨hd, -⟩
    · exact ⟨_, hx⟩
    · exact absurd (frameDigit_le_of_legal h) (Nat.not_le.2 hd)
  | pixelTransfer =>
    obtain ⟨-, hdig, hpos, -, -⟩ := h
    obtain ⟨w, hw, -⟩ := pixel_legal Config.glyphTable hdig hpos
    exact ⟨_, exec_pixelTransfer_ok hw⟩
  | _ => exact ⟨_, rfl⟩

theorem step_of_legal {s : State} (h : s.Legal) : ∃ t, step s = .next t := by
  obtain ⟨o, ho⟩ := outputs_of_legal h s.nextInputs.rst
  cases hr : s.nextInputs.rst with
  | true => exact ⟨_, step_of_reset hr ho⟩
  | false =>
    obtain ⟨t, ht⟩ := exec_of_legal _ (legal_debounced h hr)
    exact ⟨t.closeStep, by rw [step_without_reset hr ho, ht, andThen_next]⟩

/-! ## The ports and the sink after a step -/

theorem inp_of_step {s t : State} (h : step s = .next t) : t.inp = s.nextInputs := by
  obtain ⟨o, -, ⟨-, rfl⟩ | ⟨-, ⟨-, -, -, rfl⟩ | ⟨-, -, rfl⟩ | ⟨-, -, -, rfl⟩ | ⟨-, -, rfl⟩⟩⟩ := step_cases h <;> simp

/-- The outputs recorded are those formed at the start of the step (R32). -/
theorem outputs_of_step {s t : State} (h : step s = .next t) : s.outputs s.nextInputs.rst = .ok t.out := by
  obtain ⟨o, ho, ⟨-, rfl⟩ | ⟨-, ⟨-, -, -, rfl⟩ | ⟨-, -, rfl⟩ | ⟨-, -, -, rfl⟩ | ⟨-, -, rfl⟩⟩⟩ := step_cases h <;>
    simpa using ho

/-- R32: the sink receives the offered word exactly on the handshake. -/
theorem sink_of_step {s t : State} (h : step s = .next t) :
    t.sink = if t.out.pixValid && t.inp.pixReady then s.sink ++ [t.out.pixData] else s.sink := by
  obtain ⟨-, hvalid, -, -⟩ := outputs_eq_ok (outputs_of_step h)
  rw [hvalid, inp_of_step h]
  obtain ⟨o, -, ⟨hr, rfl⟩ | ⟨hr, hseq⟩⟩ := step_cases h
  · simp [hr]
  · obtain ⟨hb, hp, -, rfl⟩ | ⟨hb, hp, rfl⟩ | ⟨hb, -, -, rfl⟩ | ⟨hb, -, rfl⟩ := hseq
    · simp [hr, hb, hp]
    · simp [hp]
    · simp [hb]
    · simp [hb]

/-- Settles O42: a legal state completes its step, with the outputs formed at its start and the sink after the handshake. -/
theorem transferExactlyOnHandshake : Obligations.TransferExactlyOnHandshake := by
  intro s hs
  obtain ⟨t, ht⟩ := step_of_legal hs
  obtain ⟨hdata, hvalid, hbusy, hcnt⟩ := outputs_eq_ok (outputs_of_step ht)
  refine ⟨t, ht, inp_of_step ht, hvalid, fun hb => ?_, fun hb => ?_, hbusy, hcnt, sink_of_step ht⟩
  · simpa [State.pixData, hb] using hdata
  · simpa [State.pixData, hb] using hdata.symm

/-! ## The outputs after a reset -/

/-- A step with `rst = 1` that answers a state has reset the registers (R150). -/
theorem eq_of_reset_step {s t : State} (hr : s.nextInputs.rst = true) (h : step s = .next t) :
    t = (s.openStep t.out).resetRegs.closeStep :=
  Host.Outcome.next.inj (h.symm.trans (step_of_reset hr (outputs_of_step h)))

/-- Settles O16: the reset state and the state after a resetting step are idle with CNT at 0. -/
theorem outputsAfterReset : Obligations.OutputsAfterReset := by
  refine fun rst => ⟨outputs_of_idle rst rfl, fun s t hr h => ?_⟩
  have ht := eq_of_reset_step hr h
  have hbusy : t.busy = false := by rw [ht]; simp
  have hcnt : t.cnt = 0 := by rw [ht]; simp
  rw [outputs_of_idle rst hbusy, hcnt]

/-! ## A frame start from an illegal counter -/

theorem frameDigit_of_cntPre_eq {s : State} (h : s.cntPre = s.cnt) : s.frameDigit = s.cnt := by
  rw [State.frameDigit, h, drawDigit_same]

/-- Settles O37: where CNT has not changed in the step a frame start reads it, and faults with it when it is no digit. -/
theorem frameStartFaultsOnIllegalCounter : Obligations.FrameStartFaultsOnIllegalCounter := by
  intro s hpre hcnt
  rw [← frameDigit_of_cntPre_eq hpre] at hcnt ⊢
  rcases exec_frameStart_cases s with ⟨hle, -⟩ | ⟨-, hx⟩
  · exact absurd hle (Nat.not_le.2 hcnt)
  · exact hx

end Sys2Proof.Machine
end

section
/-! PROOFS of the family 20_memory: the glyph ROM (R42), the one writer of each register (R50), a frame start's read of CNT (R52), and
the sequencer's independence of the debounce half (R53, R118). -/

namespace Sys2Proof.Machine

/-! ## The glyph ROM -/

/-- The flat address of R66 reads its cell. -/
theorem memReadGrom_of_eq (g : GlyphTable) {a : Int} {d : Fin Config.numDigits} {i : Fin Config.numPixels}
    (ha : a = 25 * d.val + i.val) : memReadGrom g a = .ok (g d i) := by
  obtain ⟨d, hd⟩ := d
  obtain ⟨i, hi⟩ := i
  simp only [Config.numDigits, Config.numPixels] at hd hi ha
  have hin : 0 ≤ a ∧ a ≤ 249 := by omega
  have hdigit : (a / 25).toNat = d := by omega
  have hcell : (a % 25).toNat = i := by omega
  simp only [memReadGrom, dif_pos hin, hdigit, hcell]

theorem memReadGrom_of_outside (g : GlyphTable) {a : Int} (ha : a < 0 ∨ a > 249) :
    memReadGrom g a = .error (.gromRange a) :=
  dif_neg (by omega)

theorem glyphLookup_of_index (g : GlyphTable) {d : Digit} {i : Position} (hd : d.toNat ≤ 9) (hi : 24 < i.toNat) :
    glyphLookup g d i = .error (.posRange i) := by
  rw [glyphLookup, if_neg (Nat.not_lt.2 hd), if_pos hi]

/-- The checks of the digit and of the index come before the read, so that its address is one of the ROM's (R42, R80). -/
theorem glyphLookup_ne_gromRange (g : GlyphTable) (d : Digit) (i : Position) (a : Int) :
    glyphLookup g d i ≠ .error (.gromRange a) := by
  rcases Nat.lt_or_ge 9 d.toNat with hd | hd
  · simp [glyphLookup_of_digit g i hd]
  · rcases Nat.lt_or_ge 24 i.toNat with hi | hi
    · simp [glyphLookup_of_index g hd hi]
    · simp [glyphLookup_of_le g (Nat.lt_succ_of_le hd) (Nat.lt_succ_of_le hi)]

/-- Settles O28: an address of the ROM is `25·d + i` for one digit and cell, and a lookup reads only such addresses. -/
theorem glyphRomRead : Obligations.GlyphRomRead := by
  refine ⟨fun g d i => memReadGrom_of_eq g rfl, fun g a h0 h249 => ?_, fun g a => memReadGrom_of_outside g,
    glyphLookup_ne_gromRange⟩
  have hdigit : ((a / 25).toNat : Int) = a / 25 := Int.toNat_of_nonneg (by omega)
  have hcell : ((a % 25).toNat : Int) = a % 25 := Int.toNat_of_nonneg (by omega)
  refine ⟨⟨(a / 25).toNat, by omega⟩, ⟨(a % 25).toNat, by omega⟩, hdigit, hcell, memReadGrom_of_eq g ?_⟩
  simp only [hdigit, hcell]
  omega

/-! ## One writer for each register -/

theorem eq_of_exec_frameStart {s t : State} (h : exec .frameStart s = .next t) : t = s.startFrame s.frameDigit := by
  rcases exec_frameStart_cases s with ⟨-, hx⟩ | ⟨-, hx⟩ <;> rw [hx] at h
  · exact (Host.Outcome.next.inj h).symm
  · cases h

theorem eq_of_exec_pixelTransfer {s t : State} (h : exec .pixelTransfer s = .next t) :
    ∃ w, pixel Config.glyphTable s.dig s.pos = .ok w ∧ t = (s.sinkPush w).advance := by
  cases hw : pixel Config.glyphTable s.dig s.pos with
  | error f => rw [exec_pixelTransfer_fault hw] at h; cases h
  | ok w => rw [exec_pixelTransfer_ok hw] at h; exact ⟨w, rfl, (Host.Outcome.next.inj h).symm⟩

/-- Settles O44: by the operations, each with the next state it answers; the fields that it leaves alone are the laws of its
update. -/
theorem singleWriterPerRegister : Obligations.SingleWriterPerRegister := by
  intro i s t h
  cases i with
  | frameStart => rw [eq_of_exec_frameStart h]; simp
  | pixelTransfer => obtain ⟨w, -, rfl⟩ := eq_of_exec_pixelTransfer h; simp
  | reset | edgeA | edgeB | frameStartIgnored | pixelHold | seqIdle => cases h; simp

/-! ## A frame start's read of the counter -/

theorem andThen_eq_next {r : Host.Outcome State Fault Refusal} {f : State → Host.Outcome State Fault Refusal} {t : State}
    (h : andThen r f = .next t) : ∃ u, r = .next u ∧ f u = .next t := by
  cases r with
  | next u => exact ⟨u, rfl, h⟩
  | fault e | refused e => cases h

/-- A step that takes a frame start is the debounce updates followed by the start of the frame (R62, R86). -/
theorem eq_of_frameStart_step {s t : State} (hb : s.busy = false) (hr : s.nextInputs.rst = false)
    (hf : s.nextInputs.frameStart = true) (h : step s = .next t) :
    t = ((s.debounced t.out).startFrame (s.debounced t.out).frameDigit).closeStep := by
  rw [step_without_reset hr (outputs_of_step h)] at h
  obtain ⟨u, hu, ht⟩ := andThen_eq_next h
  simp only [hb, hf, Bool.false_eq_true, if_false, if_true] at hu
  rw [← eq_of_exec_frameStart hu]
  exact (Host.Outcome.next.inj ht).symm

/-- The two values that the read may give are CNT before the step and after its debounce updates (R52). -/
theorem frameDigit_debounced (s : State) (o : Outputs) :
    (s.debounced o).frameDigit =
      drawDigit s.cnt (s.debounced o).cnt (Config.drawFrame s.tick s.cnt (s.debounced o).cnt) := by
  simp [State.frameDigit]

/-- Settles O38: the frame starts from the debounced state, whose CNT is the CNT of the next state. -/
theorem counterReadIsNotTorn : Obligations.CounterReadIsNotTorn := by
  intro s hs hb hr hf
  obtain ⟨t, h⟩ := step_of_legal hs
  have ht := eq_of_frameStart_step hb hr hf h
  have hbusy : t.busy = true := by rw [ht]; simp
  have hpos : t.pos = 0 := by rw [ht]; simp
  have hcnt : t.cnt = (s.debounced t.out).cnt := (congrArg State.cnt ht :)
  have hdig : t.dig = drawDigit s.cnt t.cnt (Config.drawFrame s.tick s.cnt t.cnt) := by
    rw [hcnt, ← frameDigit_debounced]
    exact (congrArg State.dig ht :)
  refine ⟨t, h, hbusy, hpos, hdig, fun hA hB => ?_⟩
  have hkept : t.cnt = s.cnt := by rw [hcnt, debounced_cnt s t.out hr]; simp [hA, hB]
  exact ⟨hkept, by rw [hdig, hkept, drawDigit_same]⟩

/-! ## The sequencer's registers after a step -/

theorem State.advance_busy (s : State) : s.advance.busy = if s.pos = 24 then false else s.busy := by
  unfold State.advance; split <;> rfl

theorem State.advance_pos (s : State) : s.advance.pos = if s.pos = 24 then 0 else s.pos + 1 := by
  unfold State.advance; split <;> rfl

/-- BUSY after a step: a frame ends with the transfer at position 24 and starts on a request while idle (R62). -/
theorem busy_of_step {s t : State} (h : step s = .next t) :
    t.busy = (!s.nextInputs.rst &&
      if s.busy then !(s.nextInputs.pixReady && decide (s.pos = 24)) else s.nextInputs.frameStart) := by
  obtain ⟨o, -, ⟨hr, rfl⟩ | ⟨hr, hseq⟩⟩ := step_cases h
  · simp [hr]
  · obtain ⟨hb, hp, -, rfl⟩ | ⟨hb, hp, rfl⟩ | ⟨hb, hf, -, rfl⟩ | ⟨hb, hf, rfl⟩ := hseq
    · simp [hr, hb, hp, State.advance_busy]
    · simp [hr, hb, hp]
    · simp [hr, hb, hf]
    · simp [hr, hb, hf]

/-- POS after a step: a transfer advances it, a reset and a frame start put it at 0 (R62). -/
theorem pos_of_step {s t : State} (h : step s = .next t) :
    t.pos =
      if s.nextInputs.rst then 0
      else if s.busy then
        if s.nextInputs.pixReady then if s.pos = 24 then 0 else s.pos + 1 else s.pos
      else if s.nextInputs.frameStart then 0 else s.pos := by
  obtain ⟨o, -, ⟨hr, rfl⟩ | ⟨hr, hseq⟩⟩ := step_cases h
  · simp [hr]
  · obtain ⟨hb, hp, -, rfl⟩ | ⟨hb, hp, rfl⟩ | ⟨hb, hf, -, rfl⟩ | ⟨hb, hf, rfl⟩ := hseq
    · simp [hr, hb, hp, State.advance_pos]
    · simp [hr, hb, hp]
    · simp [hr, hb, hf]
    · simp [hr, hb, hf]

/-- DIG is kept from its frame's start to the next one, but for a reset (R50, R86). -/
theorem dig_of_step {s t : State} (h : step s = .next t) (hno : s.busy = true ∨ s.nextInputs.frameStart = false) :
    t.dig = if s.nextInputs.rst then 0 else s.dig := by
  obtain ⟨o, -, ⟨hr, rfl⟩ | ⟨hr, hseq⟩⟩ := step_cases h
  · simp [hr]
  · obtain ⟨-, -, -, rfl⟩ | ⟨-, -, rfl⟩ | ⟨hb, hf, -, -⟩ | ⟨-, -, rfl⟩ := hseq
    · simp [hr]
    · simp [hr]
    · simp [hb, hf] at hno
    · simp [hr]

/-! ## Independence of the debounce half -/

theorem pixData_congr {s s' : State} (hb : s.busy = s'.busy) (hp : s.pos = s'.pos) (hd : s.dig = s'.dig) :
    s.pixData = s'.pixData := by
  rw [State.pixData, State.pixData, hb, hp, hd]

/-- Whether a word moves and which one depends on the sequencer's registers and the inputs alone (R32). -/
theorem sink_congr_of_step {s s' t t' : State} (hb : s.busy = s'.busy) (hp : s.pos = s'.pos) (hd : s.dig = s'.dig)
    (hsink : s.sink = s'.sink) (hi : s.nextInputs = s'.nextInputs) (h : step s = .next t) (h' : step s' = .next t') :
    t.sink = t'.sink := by
  obtain ⟨hdata, hvalid, -, -⟩ := outputs_eq_ok (outputs_of_step h)
  obtain ⟨hdata', hvalid', -, -⟩ := outputs_eq_ok (outputs_of_step h')
  have hword : t.out.pixData = t'.out.pixData :=
    Except.ok.inj (hdata.symm.trans ((pixData_congr hb hp hd).trans hdata'))
  rw [sink_of_step h, sink_of_step h', hvalid, hvalid', inp_of_step h, inp_of_step h', hword, hb, hsink, hi]

/-- Settles O47: what each of the sequencer's fields is after a step names neither CNT nor a timestamp. -/
theorem sequencerIgnoresDebounce : Obligations.SequencerIgnoresDebounce := by
  intro s s' t t' hb hp hd hsink hi h h'
  refine ⟨?_, ?_, sink_congr_of_step hb hp hd hsink hi h h', fun hno => ?_⟩
  · rw [busy_of_step h, busy_of_step h', hb, hp, hi]
  · rw [pos_of_step h, pos_of_step h', hb, hp, hi]
  · have hno' : s'.busy = true ∨ s'.nextInputs.frameStart = false := by rwa [← hb, ← hi]
    rw [dig_of_step h hno, dig_of_step h' hno', hd, hi]

end Sys2Proof.Machine
end

section
/-! PROOFS of the family 30_encoding: the decode word and what it selects (R60 to R63), the step as R62 has it, and stimulus
scripts (R71 to R74). -/

namespace Sys2Proof

/-! ## Well-formed sets of operations -/

theorem Instr.isChain_rank_of_rising : ∀ {ops : List Instr},
    rising ops = true → ops.IsChain (fun i j => i.rank < j.rank)
  | [], _ => .nil
  | [_], _ => .singleton _
  | i :: j :: rest, h => by
    rw [rising, Bool.and_eq_true, decide_eq_true_eq] at h
    exact .cons_cons h.1 (isChain_rank_of_rising h.2)

/-- Operations in the order of a step, none twice, are rows of the table in the table's order (R62, R135). -/
theorem Instr.sublist_all_of_rising {ops : List Instr} (h : rising ops = true) : ops.Sublist all := by
  have : IsTrans Instr (fun i j => i.rank < j.rank) := ⟨fun _ _ _ => Nat.lt_trans⟩
  have : Std.Antisymm (fun i j : Instr => i.rank < j.rank) := ⟨fun _ _ hij hji => absurd hij (Nat.lt_asymm hji)⟩
  have hops : ops.Pairwise (fun i j => i.rank < j.rank) := (isChain_rank_of_rising h).pairwise
  have hall : all.Pairwise (fun i j => i.rank < j.rank) := by decide
  have hnodup : ops.Nodup := hops.imp fun hlt heq => Nat.ne_of_lt hlt (congrArg rank heq)
  exact List.sublist_of_subperm_of_pairwise (hnodup.subperm fun i _ => mem_all i) hops hall

/-- The finite check behind `selected_encodeSet`, over the rows before the sequencer's and the sequencer's own rows. -/
theorem selected_encodeSet_append :
    ∀ before ∈ (Instr.all.take 3).sublists, ∀ seq ∈ (Instr.all.drop 3).sublists,
      Instr.wellFormedSet (before ++ seq) = true → selected (encodeSet (before ++ seq)) = before ++ seq := by decide

theorem selected_encodeSet {ops : List Instr} (h : Instr.wellFormedSet ops = true) : selected (encodeSet ops) = ops := by
  have hparts := h
  simp only [Instr.wellFormedSet, Bool.and_eq_true] at hparts
  obtain ⟨⟨⟨hrising, -⟩, -⟩, -⟩ := hparts
  have hsub := Instr.sublist_all_of_rising hrising
  rw [← List.take_append_drop 3 Instr.all, List.sublist_append_iff] at hsub
  obtain ⟨before, seq, rfl, hbefore, hseq⟩ := hsub
  exact selected_encodeSet_append before (List.mem_sublists.2 hbefore) seq (List.mem_sublists.2 hseq) h

theorem wellFormedSet_selected : ∀ d : DecodeWord, Instr.wellFormedSet (selected d) = true := by decide

theorem selected_of_decode {b : Byte} {rest rest' : List Byte} {ops : List Instr}
    (h : decode (b :: rest) = .ok (ops, rest')) : ops = selected (b.setWidth 6) ∧ rest' = rest := by
  rw [decode] at h
  split at h
  · cases h; exact ⟨rfl, rfl⟩
  · cases h

/-- Settles O4: a well-formed list stands in the table's order, so that its encoding can be checked by its rows; and each of the
64 words selects a well-formed list. -/
theorem wellFormedSetsAreTheDecodedOnes : Obligations.WellFormedSetsAreTheDecodedOnes := by
  refine ⟨fun ops rest h => ?_, fun b rest rest' ops h => ?_⟩
  · rw [decode_wordByte, selected_encodeSet h]
  · obtain ⟨rfl, hrest⟩ := selected_of_decode h
    exact ⟨wellFormedSet_selected _, hrest⟩

/-! ## Rows of the opcode table -/

/-- A row's don't-care bits are 0 in its `match` column. -/
theorem Instr.pattern_and_mask (i : Instr) : i.pattern &&& i.mask = i.pattern := by
  cases i <;> decide

theorem encode_and_mask (i : Instr) (fill : DecodeWord) : encode i fill &&& i.mask = i.pattern := by
  rw [encode, BitVec.and_or_distrib_right, i.pattern_and_mask, BitVec.and_assoc, BitVec.and_comm (~~~i.mask)]
  simp

theorem encode_and_not_mask (i : Instr) (fill : DecodeWord) :
    encode i fill &&& ~~~i.mask = fill &&& ~~~i.mask := by
  rw [encode, ← i.pattern_and_mask, BitVec.and_or_distrib_right, BitVec.and_assoc, BitVec.and_assoc]
  simp

/-- A word is its bits under the mask and its don't-care bits. -/
theorem encode_of_mem_selected {i : Instr} {d : DecodeWord} (h : i ∈ selected d) : encode i d = d := by
  rw [encode, ← mem_selected.1 h, ← BitVec.and_or_distrib_left, BitVec.or_not_self, BitVec.and_allOnes]

/-- Settles O3: the encoded word has the row's match under the mask, and the filling beside it. -/
theorem encodedOperationDecodesToItself : Obligations.EncodedOperationDecodesToItself :=
  ⟨fun i fill rest => ⟨selected (encode i fill), decode_wordByte _ rest, mem_selected.2 (encode_and_mask i fill),
    encode_and_not_mask i fill⟩, fun _ _ => encode_of_mem_selected⟩

/-- Settles O2: the numbers are the mask and match columns of the rows. -/
theorem selectionFollowsMaskAndMatch : Obligations.SelectionFollowsMaskAndMatch :=
  fun _ => ⟨mem_selected, mem_selected, mem_selected, mem_selected, mem_selected, mem_selected, mem_selected, mem_selected⟩

/-! ## Strobe words and decode words -/

theorem getLsbD_strobes (i : Inputs) :
    i.strobes.getLsbD 4 = i.rst ∧ i.strobes.getLsbD 3 = i.edgeA ∧ i.strobes.getLsbD 2 = i.edgeB ∧
    i.strobes.getLsbD 1 = i.frameStart ∧ i.strobes.getLsbD 0 = i.pixReady := by
  rw [Inputs.strobes]
  generalize i.rst = rst, i.edgeA = a, i.edgeB = b, i.frameStart = start, i.pixReady = ready
  revert rst a b start ready
  decide

/-- The strobe word gives the strobes back (R73). -/
theorem ofStrobes_strobes (i : Inputs) : Inputs.ofStrobes i.strobes i.nowUs = i := by
  obtain ⟨hrst, ha, hb, hstart, hready⟩ := getLsbD_strobes i
  rw [Inputs.ofStrobes, hrst, ha, hb, hstart, hready]

/-- The inputs laid out for a strobe word have that strobe word (R73). -/
theorem strobes_ofStrobes (w : StrobeWord) (now : Time) : (Inputs.ofStrobes w now).strobes = w := by
  simp only [Inputs.strobes, Inputs.ofStrobes]
  revert w
  decide

theorem decodeWord_eq_concat (i : Inputs) (busy : Bool) : decodeWord i busy = i.strobes.concat busy := rfl

/-- Every word is the decode word of some inputs and BUSY (R60, R74). -/
theorem decodeWord_ofStrobes (d : DecodeWord) (now : Time) :
    decodeWord (Inputs.ofStrobes (d.extractLsb' 1 5) now) (d.getLsbD 0) = d := by
  rw [decodeWord_eq_concat, strobes_ofStrobes]
  revert d
  decide

theorem Machine.decodeWordOfStrobes_eq_concat :
    ∀ (w : StrobeWord) (busy : Bool), decodeWordOfStrobes w busy = w.concat busy := by decide

theorem strobes_eq_or (i : Inputs) :
    i.strobes = (if i.rst then 0x10 else 0) ||| (if i.edgeA then 0x08 else 0) ||| (if i.edgeB then 0x04 else 0) |||
      (if i.frameStart then 0x02 else 0) ||| (if i.pixReady then 0x01 else 0) := by
  rw [Inputs.strobes]
  generalize i.rst = rst, i.edgeA = a, i.edgeB = b, i.frameStart = start, i.pixReady = ready
  revert rst a b start ready
  decide

/-- Settles O7: appending BUSY to the strobe word is R74's shift. -/
theorem decodeWordIsStrobesAndBusy : Obligations.DecodeWordIsStrobesAndBusy :=
  fun i busy => ⟨Machine.decodeWordOfStrobes_eq_concat i.strobes busy, strobes_eq_or i, ofStrobes_strobes i⟩

theorem getLsbD_decodeWord (i : Inputs) (busy : Bool) :
    (decodeWord i busy).getLsbD 5 = i.rst ∧ (decodeWord i busy).getLsbD 4 = i.edgeA ∧
    (decodeWord i busy).getLsbD 3 = i.edgeB ∧ (decodeWord i busy).getLsbD 2 = i.frameStart ∧
    (decodeWord i busy).getLsbD 1 = i.pixReady ∧ (decodeWord i busy).getLsbD 0 = busy := by
  obtain ⟨hrst, ha, hb, hstart, hready⟩ := getLsbD_strobes i
  rw [decodeWord_eq_concat, ← hrst, ← ha, ← hb, ← hstart, ← hready]
  exact ⟨BitVec.getLsbD_concat_succ, BitVec.getLsbD_concat_succ, BitVec.getLsbD_concat_succ, BitVec.getLsbD_concat_succ,
    BitVec.getLsbD_concat_succ, BitVec.getLsbD_concat_zero⟩

/-- Settles O8: the decode word of a step is that of its inputs and BUSY. -/
theorem decodeWordBits : Obligations.DecodeWordBits :=
  fun s => getLsbD_decodeWord s.nextInputs s.busy

/-! ## Every decode word is defined -/

/-- Settles O1: a word selects what the inputs it is formed from select, and a legal state completes its step. -/
theorem everyDecodeWordIsDefined : Obligations.EveryDecodeWordIsDefined := by
  intro d
  have hreset := selected_decodeWord_of_reset (Inputs.ofStrobes (d.extractLsb' 1 5) 0) (d.getLsbD 0)
  have hseq := selected_decodeWord_without_reset (Inputs.ofStrobes (d.extractLsb' 1 5) 0) (d.getLsbD 0)
  rw [decodeWord_ofStrobes] at hreset hseq
  simp only [Inputs.ofStrobes, BitVec.getLsbD_extractLsb'] at hreset hseq
  exact ⟨hreset, hseq, decode_wordByte d [], fun _ hs _ => Machine.step_of_legal hs⟩

end Sys2Proof

namespace Sys2Proof.Machine

/-! ## The step of R62 -/

theorem step_eq_of_outputs {s : State} {o : Outputs} (h : s.outputs s.nextInputs.rst = .ok o) :
    step s = andThen (execAll (selected s.decodeWord) (s.openStep o)) fun t => .next t.closeStep := by
  simp only [step, clockEdge, h]

/-- Settles O11: where the outputs can be formed the step is `execAll` of the selected operations, and of one operation that is
`exec`. -/
theorem stepPerformsTheDecodedOperations : Obligations.StepPerformsTheDecodedOperations := by
  intro s
  refine ⟨fun f => step_of_output_fault, fun o ho => ?_⟩
  have hnext : ∀ t, execAll (selected s.decodeWord) (s.openStep o) = .next t → step s = .next t.closeStep :=
    fun t ht => by rw [step_eq_of_outputs ho, ht, andThen_next]
  have hfault : ∀ f, execAll (selected s.decodeWord) (s.openStep o) = .fault f → step s = .fault f :=
    fun f hf => by rw [step_eq_of_outputs ho, hf, andThen_fault]
  refine ⟨decode_wordByte _ [], hnext, hfault, fun i hi => ?_⟩
  rw [hi, execAll_single] at hnext hfault
  exact ⟨hnext, hfault⟩

/-- Settles O12: the strobes of the word and its bit 0 are what the decode word of the next step is formed from. -/
theorem placedWordIsTheNextDecodeWord : Obligations.PlacedWordIsTheNextDecodeWord :=
  fun s _ _ _ => ⟨decodeWord_ofStrobes _ s.inp.nowUs, rfl, rfl, rfl⟩

theorem andThen_ne_refused {r : Host.Outcome State Fault Refusal} {f : State → Host.Outcome State Fault Refusal}
    {e : Refusal} (hr : r ≠ .refused e) (hf : ∀ t, f t ≠ .refused e) : andThen r f ≠ .refused e := by
  cases r with
  | next t => exact hf t
  | fault _ => simp
  | refused e' => simpa using hr

theorem execAll_ne_refused (ops : List Instr) (s : State) (e : Refusal) : execAll ops s ≠ .refused e := by
  induction ops generalizing s with
  | nil => simp
  | cons i rest ih => exact andThen_ne_refused (exec_ne_refused i s e) ih

/-- Settles O54: no operation is refused, and nothing but an operation could be. -/
theorem stepNeverRefuses : Obligations.StepNeverRefuses := by
  intro s r
  cases ho : s.outputs s.nextInputs.rst with
  | error f => simp [step_of_output_fault ho]
  | ok o =>
    rw [step_eq_of_outputs ho]
    exact andThen_ne_refused (execAll_ne_refused _ _ r) fun _ => by simp

theorem takesA_of_not_reset {s : State} (hr : s.nextInputs.rst = false) :
    s.takesA = (s.nextInputs.edgeA &&
      accept s.nextInputs.nowUs.toNat s.tsa.toNat (Config.drawAcceptA s.tick s.nextInputs.nowUs s.tsa)) := by
  simp [State.takesA, hr]

theorem takesB_of_not_reset {s : State} (hr : s.nextInputs.rst = false) :
    s.takesB = (s.nextInputs.edgeB &&
      accept s.nextInputs.nowUs.toNat s.tsb.toNat (Config.drawAcceptB s.tick s.nextInputs.nowUs s.tsb)) := by
  simp [State.takesB, hr]

/-- A state is its fields, so that an update can be compared with a record field by field. -/
theorem State.eta (s : State) :
    s = ⟨s.cnt, s.tsa, s.tsb, s.busy, s.pos, s.dig, s.inp, s.out, s.sink, s.cntPre, s.stim, s.tick⟩ := rfl

/-- The debounce updates as one record: R62's assignments to CNT, TSA and TSB, and the ports as sampled. -/
theorem debounced_eq (s : State) (o : Outputs) (hr : s.nextInputs.rst = false) :
    s.debounced o =
      { s with
        cnt := (let c := if s.takesA then incDigit s.cnt else s.cnt
                if s.takesB then decDigit c else c),
        tsa := if s.takesA then s.nextInputs.nowUs else s.tsa,
        tsb := if s.takesB then s.nextInputs.nowUs else s.tsb,
        inp := s.nextInputs, out := o, cntPre := s.cnt, stim := s.stim.tail } := by
  rw [State.eta (s.debounced o)]
  simp [debounced_cnt s o hr, debounced_tsa s o hr, debounced_tsb s o hr]

/-- R62's second half by the model's named updates of the debounced state. -/
theorem nextWithoutReset_eq (s : State) (o : Outputs) (hr : s.nextInputs.rst = false) :
    nextWithoutReset s o =
      if s.busy then
        if s.nextInputs.pixReady then .next ((s.debounced o).sinkPush o.pixData).advance.closeStep
        else .next (s.debounced o).closeStep
      else if s.nextInputs.frameStart then
        if 9 < (s.debounced o).frameDigit.toNat then .fault (.digitRange (s.debounced o).frameDigit)
        else .next ((s.debounced o).startFrame (s.debounced o).frameDigit).closeStep
      else .next (s.debounced o).closeStep := by
  have hd := debounced_eq s o hr
  rw [takesA_of_not_reset hr, takesB_of_not_reset hr] at hd
  by_cases hpos : s.pos = 24
  · have hlast : ((s.debounced o).sinkPush o.pixData).pos = 24 := by simpa using hpos
    rw [State.advance_of_last hlast, nextWithoutReset, if_pos hpos, hd]
    rfl
  · have hlast : ((s.debounced o).sinkPush o.pixData).pos ≠ 24 := by simpa using hpos
    rw [State.advance_of_not_last hlast, nextWithoutReset, if_neg hpos, hd]
    rfl

/-- A step without reset is R62's second half. -/
theorem step_eq_nextWithoutReset {s : State} {o : Outputs} (hr : s.nextInputs.rst = false)
    (ho : s.outputs s.nextInputs.rst = .ok o) : step s = nextWithoutReset s o := by
  obtain ⟨hdata, -⟩ := outputs_eq_ok ho
  rw [step_without_reset hr ho, nextWithoutReset_eq s o hr]
  cases hb : s.busy with
  | true =>
    cases hp : s.nextInputs.pixReady with
    | true =>
      have hx : exec .pixelTransfer (s.debounced o) = .next ((s.debounced o).sinkPush o.pixData).advance :=
        exec_pixelTransfer_ok (by simpa [State.pixData, hb] using hdata)
      simp [hx]
    | false => simp
  | false =>
    cases hf : s.nextInputs.frameStart with
    | true =>
      rcases exec_frameStart_cases (s.debounced o) with ⟨hle, hx⟩ | ⟨hlt, hx⟩
      · simp [hx, Nat.not_lt.2 hle]
      · simp [hx, hlt]
    | false => simp

/-- Settles O13: by the cases of R62, a fault in forming the outputs, a reset, and a step without reset. -/
theorem stepIsThePseudocodeOfR62 : Obligations.StepIsThePseudocodeOfR62 := by
  intro s
  rw [stepOfR62]
  cases ho : s.outputs s.nextInputs.rst with
  | error f => exact step_of_output_fault ho
  | ok o =>
    cases hr : s.nextInputs.rst with
    | true => exact step_of_reset hr ho
    | false => exact step_eq_nextWithoutReset hr ho

/-! ## The debounce half of a step -/

/-- CNT, TSA and TSB after a step are 0 after a reset, and those of the debounced state otherwise (R62): no sequencer operation
writes them. -/
theorem debounce_of_step {s t : State} (h : step s = .next t) :
    t.cnt = (if s.nextInputs.rst then 0 else (s.debounced t.out).cnt) ∧
    t.tsa = (if s.nextInputs.rst then 0 else (s.debounced t.out).tsa) ∧
    t.tsb = (if s.nextInputs.rst then 0 else (s.debounced t.out).tsb) := by
  obtain ⟨o, -, ⟨hr, rfl⟩ | ⟨hr, hseq⟩⟩ := step_cases h
  · simp [hr]
  · obtain ⟨-, -, -, rfl⟩ | ⟨-, -, rfl⟩ | ⟨-, -, -, rfl⟩ | ⟨-, -, rfl⟩ := hseq <;> simp [hr]

theorem takesA_congr {s s' : State} (htsa : s.tsa = s'.tsa) (hi : s.nextInputs = s'.nextInputs) (htick : s.tick = s'.tick) :
    s.takesA = s'.takesA := by
  rw [State.takesA, State.takesA, htsa, hi, htick]

theorem takesB_congr {s s' : State} (htsb : s.tsb = s'.tsb) (hi : s.nextInputs = s'.nextInputs) (htick : s.tick = s'.tick) :
    s.takesB = s'.takesB := by
  rw [State.takesB, State.takesB, htsb, hi, htick]

/-- Settles O27: which edges a step takes, and so the debounced state's CNT, TSA and TSB, are the same in both. -/
theorem debounceIgnoresTheSequencer : Obligations.DebounceIgnoresTheSequencer := by
  intro s s' t t' hcnt htsa htsb hi htick h h'
  obtain ⟨hc, ha, hb⟩ := debounce_of_step h
  obtain ⟨hc', ha', hb'⟩ := debounce_of_step h'
  rw [hc, ha, hb, hc', ha', hb', ← hi]
  cases hr : s.nextInputs.rst with
  | true => exact ⟨rfl, rfl, rfl⟩
  | false =>
    have hr' : s'.nextInputs.rst = false := hi ▸ hr
    have hA := takesA_congr htsa hi htick
    have hB := takesB_congr htsb hi htick
    simp [debounced_cnt, debounced_tsa, debounced_tsb, hr', hA, hB, hcnt, htsa, htsb, hi]

/-! ## The inputs of a STEP -/

/-- A strobe of a STEP's inputs is 1 where it was 1 before the fields or one of the fields names it (R71). -/
theorem foldl_withField_strobe {strobe : Inputs → Bool} {name : Field}
    (h : ∀ i f, strobe (withField i f) = true ↔ strobe i = true ∨ name = f) (fields : List Field) (i : Inputs) :
    strobe (fields.foldl withField i) = true ↔ strobe i = true ∨ name ∈ fields := by
  induction fields generalizing i with
  | nil => simp
  | cons f rest ih => rw [List.foldl_cons, ih, h, List.mem_cons, or_assoc]

/-- The strobes start at 0. -/
theorem stepInputs_strobe {strobe : Inputs → Bool} {name : Field}
    (h : ∀ i f, strobe (withField i f) = true ↔ strobe i = true ∨ name = f) (previous : Time) (fields : List Field)
    (h0 : strobe (stepInputs previous []) = false) :
    strobe (stepInputs previous fields) = true ↔ name ∈ fields := by
  rw [stepInputs, foldl_withField_strobe h]
  exact or_iff_right (Bool.eq_false_iff.1 h0)

/-- The time of a STEP's inputs is the last one named. -/
theorem nowUs_foldl_withField (fields : List Field) (i : Inputs) :
    (fields.foldl withField i).nowUs = (Stmt.times fields).foldl (fun _ t => BitVec.ofNat Config.timeWidth t) i.nowUs := by
  induction fields generalizing i with
  | nil => rfl
  | cons f rest ih => rw [List.foldl_cons, ih]; cases f <;> rfl

theorem nowUs_stepInputs_of_no_time {previous : Time} {fields : List Field} (h : Stmt.times fields = []) :
    (stepInputs previous fields).nowUs = previous := by
  rw [stepInputs, nowUs_foldl_withField, h, List.foldl_nil]

theorem nowUs_stepInputs_of_one_time {previous : Time} {fields : List Field} {t : Nat} (h : Stmt.times fields = [t]) :
    (stepInputs previous fields).nowUs = BitVec.ofNat Config.timeWidth t := by
  rw [stepInputs, nowUs_foldl_withField, h, List.foldl_cons, List.foldl_nil]

/-- Settles O9: each strobe by the fields that name it, the time by the times that the fields name. -/
theorem stepStatementInputs : Obligations.StepStatementInputs := by
  intro previous fields
  have htime : ∀ t, Stmt.times fields = [t] → t < 2 ^ Config.timeWidth → (stepInputs previous fields).nowUs.toNat = t :=
    fun t hone hfits => by rw [nowUs_stepInputs_of_one_time hone, BitVec.toNat_ofNat, Nat.mod_eq_of_lt hfits]
  refine ⟨stepInputs_strobe ?_ previous fields rfl, stepInputs_strobe ?_ previous fields rfl,
    stepInputs_strobe ?_ previous fields rfl, stepInputs_strobe ?_ previous fields rfl,
    stepInputs_strobe ?_ previous fields rfl, nowUs_stepInputs_of_no_time,
    fun t hone => ⟨htime t hone, nowUs_stepInputs_of_one_time hone⟩⟩
  all_goals
    intro i f
    cases f <;> simp [withField]

/-! ## Expansion of pseudo-instructions -/

/-- Statements that stand for the same STEPs give the same inputs, whatever follows them (R72). -/
theorem scriptInputs_append_congr {stmts stmts' : List Stmt} (h : stmts.flatMap stmtSteps = stmts'.flatMap stmtSteps)
    (previous : Time) (rest : List Stmt) :
    scriptInputs previous (stmts ++ rest) = scriptInputs previous (stmts' ++ rest) := by
  rw [scriptInputs, scriptInputs, List.flatMap_append, List.flatMap_append, h]

theorem flatMap_stmtSteps_replicate (n : Nat) (fields : List Field) :
    (List.replicate n (Stmt.step fields)).flatMap stmtSteps = List.replicate n fields := by
  induction n with
  | zero => rfl
  | succ n ih => rw [List.replicate_succ, List.flatMap_cons, ih]; rfl

/-- Settles O10: a pseudo-instruction and its expansion stand for the same STEPs. -/
theorem pseudoInstructionExpansions : Obligations.PseudoInstructionExpansions := by
  intro previous t n rest
  have hcount : ∀ (stmt : Stmt) (fields : List Field), stmtSteps stmt = List.replicate n fields →
      scriptInputs previous (stmt :: rest) = scriptInputs previous (List.replicate n (.step fields) ++ rest) :=
    fun stmt fields h => scriptInputs_append_congr (stmts := [stmt])
      (by rw [flatMap_stmtSteps_replicate, List.flatMap_singleton, h]) previous rest
  exact ⟨rfl, rfl, rfl, rfl, rfl, hcount _ _ rfl, hcount _ _ rfl, hcount _ _ rfl, rfl, fun _ => rfl, rfl⟩

/-! ## Runs over inputs laid out -/

/-- From a legal state a run of any length reaches a legal state, having used up one sample a step. -/
theorem run_of_legal {s : State} (hs : s.Legal) (k : Nat) :
    ∃ t, s.run k = .next t ∧ t.Legal ∧ t.stim = s.stim.drop k := by
  induction k generalizing s with
  | zero => exact ⟨s, rfl, hs, rfl⟩
  | succ k ih =>
    obtain ⟨u, hu⟩ := step_of_legal hs
    obtain ⟨t, ht, hlegal, hstim⟩ := ih (stepKeepsLegal s u hs hu)
    refine ⟨t, (run_succ_of_step hu k).trans ht, hlegal, ?_⟩
    rw [hstim, stim_of_step hu, List.drop_tail]

/-- Settles O55: each step of the run from the loaded state finds the next of the script's samples at the ports. -/
theorem loadedScriptDrivesTheSteps : Obligations.LoadedScriptDrivesTheSteps := by
  refine ⟨fun s stmts => rfl, fun stmts => ?_, fun s stmts hs k hk => ?_⟩
  · simp [State.loadScript, State.present, State.reset]
  · obtain ⟨t, ht, -, hstim⟩ := run_of_legal (s := s.loadScript stmts) hs k
    refine ⟨t, ht, nextInputs_of_cons (rest := (scriptInputs s.inp.nowUs stmts).drop (k + 1) ++ s.stim) ?_⟩
    rw [hstim, State.loadScript, State.present_stim, List.drop_append_of_le_length hk.le, List.drop_eq_getElem_cons hk,
      List.cons_append]

end Sys2Proof.Machine
end

section
/-! PROOFS of the family 40_render: the combinational units (R80 to R85) and the sequencer's operations and frames (R86 to R92). -/

namespace Sys2Proof.Machine

/-! ## Glyph lookup and mirror -/

/-- Settles O29: the digit is checked first, then the index, and then the cell is read. -/
theorem glyphLookupResult : Obligations.GlyphLookupResult :=
  fun g _ i => ⟨glyphLookup_of_le g, glyphLookup_of_digit g i, glyphLookup_of_index g⟩

/-- Settles O30: the two branches of MIRROR. -/
theorem mirrorReversesColumns : Obligations.MirrorReversesColumns :=
  fun _ => ⟨mirror_of_le, mirror_of_gt⟩

/-- The answer of MIRROR as a number: nothing is cut off in its five bits. -/
theorem mirror_toNat {p : Position} (h : p.toNat ≤ 24) :
    ∃ q, mirror p = .ok q ∧ q.toNat = 5 * (p.toNat / 5) + (4 - p.toNat % 5) := by
  refine ⟨_, mirror_of_le h, ?_⟩
  rw [BitVec.toNat_ofNat]
  omega

theorem le_of_mirror {p q : Position} (h : mirror p = .ok q) : p.toNat ≤ 24 := by
  by_contra hp
  rw [mirror_of_gt (Nat.not_le.1 hp)] at h
  cases h

/-- `4 − (4 − c) = c` in a row that is kept (R82). -/
theorem mirror_mirror {p q : Position} (h : mirror p = .ok q) :
    q.toNat ≤ 24 ∧ mirror q = .ok p ∧ q.toNat / 5 = p.toNat / 5 := by
  have hp := le_of_mirror h
  obtain ⟨q', hq', hval⟩ := mirror_toNat hp
  obtain rfl : q' = q := Except.ok.inj (hq'.symm.trans h)
  obtain ⟨p', hp', hback⟩ := mirror_toNat (p := q') (by omega)
  have hsame : p' = p := BitVec.eq_of_toNat_eq (by omega)
  exact ⟨by omega, hsame ▸ hp', by omega⟩

/-- Settles O31: a map that is its own inverse on 0..24 is onto and one to one there. -/
theorem mirrorIsAnInvolution : Obligations.MirrorIsAnInvolution := by
  refine ⟨fun p hp => ?_, fun q hq => ?_, fun p p' q h h' => ?_⟩
  · obtain ⟨q, hq, -⟩ := mirror_toNat hp
    exact ⟨q, hq, mirror_mirror hq⟩
  · obtain ⟨p, hp, -⟩ := mirror_toNat hq
    exact ⟨p, mirror_mirror hp⟩
  · obtain ⟨-, hback, -⟩ := mirror_mirror h
    obtain ⟨-, hback', -⟩ := mirror_mirror h'
    exact Except.ok.inj (hback.symm.trans hback')

/-! ## The encoder and the pixel word -/

/-- Settles O32: the configured function and the exact reference are lawful, and a lawful function is taken as it is. -/
theorem encChannelLaws : Obligations.EncChannelLaws := by
  obtain ⟨hdark, hfull, hmono, hrange⟩ := lawful_encChannel
  obtain ⟨hdark', hfull', hmono', hrange'⟩ := lawful_encChannelExact
  refine ⟨hdark, hfull, hmono, hrange, hdark', hfull', hmono', hrange', fun x n => ?_, rfl,
    fun f hd hf hm hr => encFrom_of_lawful ⟨hd, hf, hm, hr⟩⟩
  have hscale : x.val * 255 * 0.01 = x.val * (51 / 20) := by ring
  rw [hscale]
  exact encChannelExact_eq_iff x n

/-- Settles O33: ENC_CHANNEL's form for one bit gives the bytes, and their places are read off for each of the eight colors. -/
theorem encodePlacesChannels : Obligations.EncodePlacesChannels := by
  refine fun r g b => ⟨encodeColor_eq_encodeIntensities r g b, ?_⟩
  revert r g b
  decide

/-- Settles O34: the position's fault, then the digit's, then the mirrored cell. -/
theorem pixelWord : Obligations.PixelWord :=
  fun g d _ => ⟨fun hd hp hm => pixel_of_le g hd (Nat.le_of_lt_succ hp) hm, pixel_of_position g d, pixel_of_digit g⟩

/-! ## The sequencer's operations -/

/-- Settles O36: the digit read is one of two legal ones, so that the frame starts. -/
theorem frameStartCompletes : Obligations.FrameStartCompletes := by
  intro s hpre hcnt
  have hread : s.frameDigit = s.cntPre ∨ s.frameDigit = s.cnt := drawDigit_cases _ _ _
  refine ⟨s.frameDigit, hread, ?_⟩
  rcases exec_frameStart_cases s with ⟨-, hx⟩ | ⟨hlt, -⟩
  · exact hx
  · rcases hread with hd | hd <;> rw [hd] at hlt <;> omega

/-- Settles O39: the three meanings are the identity. -/
theorem idleOperationsComplete : Obligations.IdleOperationsComplete :=
  fun s => ⟨exec_frameStartIgnored s, exec_pixelHold s, exec_seqIdle s⟩

/-- R88's two cases of the position, as records. -/
theorem advance_sinkPush (s : State) (w : PixWord) :
    (s.sinkPush w).advance =
      if s.pos.toNat = 24 then { s with sink := s.sink ++ [w], busy := false, pos := 0 }
      else { s with sink := s.sink ++ [w], pos := BitVec.ofNat 5 (s.pos.toNat + 1) } := by
  rcases advance_cases (s.sinkPush w) with ⟨hlast, ha⟩ | ⟨hlast, ha⟩ <;> rw [ha]
  · have hpos : s.pos.toNat = 24 := congrArg BitVec.toNat hlast
    rw [if_pos hpos]
    rfl
  · have hpos : s.pos.toNat ≠ 24 := fun h => hlast (BitVec.eq_of_toNat_eq h)
    have hnext : BitVec.ofNat 5 (s.pos.toNat + 1) = s.pos + 1 := by bv_omega
    rw [if_neg hpos, hnext]
    rfl

/-- Settles O41: a legal DIG and POS have a word, which is pushed; the faults are PIXEL's. -/
theorem pixelTransferCompletes : Obligations.PixelTransferCompletes := by
  refine fun s => ⟨fun hd hp => ?_, fun hp => exec_pixelTransfer_fault (pixel_of_position _ _ hp),
    fun hp hd => exec_pixelTransfer_fault (pixel_of_digit _ hp hd)⟩
  obtain ⟨w, hw, -⟩ := pixel_legal Config.glyphTable hd hp
  refine ⟨w, hw, fun hb => ?_, ?_⟩
  · rw [State.pixData, if_pos hb, hw]
  · rw [exec_pixelTransfer_ok hw, advance_sinkPush]

/-! ## What the sequencer keeps -/

theorem extractLsb'_of_isFrameWord {w : PixWord} (h : isFrameWord w) : w.extractLsb' 0 8 = 0 := by
  rcases h with rfl | rfl <;> decide

theorem isFrameWord_of_pixData {s : State} {w : PixWord} (h : s.pixData = .ok w) : isFrameWord w := by
  unfold State.pixData at h
  split at h
  · rcases pixel_cases Config.glyphTable s.dig s.pos with ⟨v, hv, hword, -⟩ | ⟨-, hf⟩ | ⟨-, -, hf⟩
    · rw [hv] at h
      exact Except.ok.inj h ▸ hword
    · simp [hf] at h
    · simp [hf] at h
  · exact .inl (Except.ok.inj h).symm

/-- Settles O50: the one word that a step can add to the sink is the one formed as its `pix_data`. -/
theorem stepKeepsSinkLegal : Obligations.StepKeepsSinkLegal := by
  intro s t hs h
  have hlegal : t.SinkLegal := by
    intro w hw
    obtain ⟨hdata, -⟩ := outputs_eq_ok (outputs_of_step h)
    rw [sink_of_step h] at hw
    split at hw
    · rcases List.mem_append.1 hw with hold | hnew
      · exact hs w hold
      · exact List.mem_singleton.1 hnew ▸ isFrameWord_of_pixData hdata
    · exact hs w hw
  exact ⟨hlegal, fun w hw => extractLsb'_of_isFrameWord (hlegal w hw)⟩

/-- Settles O43: from what BUSY, POS and DIG are after a step; a frame start finds POS at 0 already. -/
theorem offeredWordIsStable : Obligations.OfferedWordIsStable := by
  intro s hs hr
  obtain ⟨t, h⟩ := step_of_legal hs
  obtain ⟨-, -, -, hidle, -⟩ := hs
  have hbusy := busy_of_step h
  have hpos := pos_of_step h
  have hdig := dig_of_step h
  simp only [hr, Bool.false_eq_true, if_false] at hbusy hpos hdig
  refine ⟨t, h, fun hb hp => ?_, fun hmoved => ?_, fun hchanged => ?_⟩
  · have hb' : t.busy = true := by simp [hbusy, hb, hp]
    have hp' : t.pos = s.pos := by simp [hpos, hb, hp]
    exact ⟨pixData_congr (hb'.trans hb.symm) hp' (hdig (.inl hb)), hb'⟩
  · cases hb : s.busy with
    | true =>
      refine ⟨rfl, ?_⟩
      by_contra hp
      exact hmoved (by simp [hpos, hb, hp])
    | false => exact absurd (by simp [hpos, hb, hidle hb]) hmoved
  · by_contra hno
    refine hchanged (hdig ?_)
    cases hb : s.busy with
    | true => exact .inl rfl
    | false => exact .inr (by simpa [hb] using hno)

/-! ## A request during a frame -/

/-- `s` with `i` laid out for the next step, but for `frame_start`, which is `f`. -/
def State.requesting (s : State) (i : Inputs) (rest : List Inputs) (f : Bool) : State :=
  { s with stim := { i with frameStart := f } :: rest }

@[simp] theorem requesting_busy (s : State) (i : Inputs) (rest : List Inputs) (f : Bool) :
    (s.requesting i rest f).busy = s.busy := rfl

@[simp] theorem requesting_pos (s : State) (i : Inputs) (rest : List Inputs) (f : Bool) :
    (s.requesting i rest f).pos = s.pos := rfl

@[simp] theorem pixReady_requesting (s : State) (i : Inputs) (rest : List Inputs) (f : Bool) :
    (s.requesting i rest f).nextInputs.pixReady = i.pixReady := rfl

/-- During a frame R62's pseudocode does not read `frame_start` but for the record of the ports. -/
theorem nextWithoutReset_requesting {s u : State} (hb : s.busy = true) (i : Inputs) (rest : List Inputs) (o : Outputs)
    (h : nextWithoutReset (s.requesting i rest false) o = .next u) (f : Bool) :
    nextWithoutReset (s.requesting i rest f) o = .next { u with inp := (s.requesting i rest f).nextInputs } := by
  unfold nextWithoutReset at h ⊢
  simp only [requesting_busy, requesting_pos, pixReady_requesting, hb, if_true] at h ⊢
  by_cases hp : i.pixReady = true
  · rw [if_pos hp] at h ⊢
    by_cases hlast : s.pos = 24
    · rw [if_pos hlast] at h ⊢
      cases h
      rfl
    · rw [if_neg hlast] at h ⊢
      cases h
      rfl
  · rw [if_neg hp] at h ⊢
    cases h
    rfl

/-- R87: during a frame `frame_start` shows in the record of the ports only. -/
theorem step_requesting {s : State} (hs : s.Legal) (hb : s.busy = true) (i : Inputs) (rest : List Inputs) :
    ∃ u : State, ∀ f, step (s.requesting i rest f) = .next { u with inp := (s.requesting i rest f).nextInputs } := by
  obtain ⟨o, ho⟩ := outputs_of_legal hs i.rst
  have hform (f : Bool) : (s.requesting i rest f).outputs (s.requesting i rest f).nextInputs.rst = .ok o := ho
  cases hr : i.rst with
  | true => exact ⟨((s.requesting i rest false).openStep o).resetRegs.closeStep, fun f => step_of_reset hr (hform f)⟩
  | false =>
    have hstep (f : Bool) := step_eq_nextWithoutReset (s := s.requesting i rest f) hr (hform f)
    obtain ⟨u, hu⟩ := step_of_legal (s := s.requesting i rest false) hs
    exact ⟨u, fun f => (hstep f).trans (nextWithoutReset_requesting hb i rest o ((hstep false).symm.trans hu) f)⟩

/-- Settles O40: the two steps end in one state but for the ports. -/
theorem requestWhileBusyIsIgnored : Obligations.RequestWhileBusyIsIgnored := by
  intro s i rest hs hb
  obtain ⟨u, hu⟩ := step_requesting hs hb i rest
  exact ⟨_, _, hu true, hu false, rfl⟩

/-! ## A frame of twenty-five words -/

/-- A run's last step. -/
theorem run_succ_last (s : State) (k : Nat) : s.run (k + 1) = andThen (s.run k) step := by
  induction k generalizing s with
  | zero => rw [run_succ, run_zero, andThen_next]; cases step s <;> rfl
  | succ k ih =>
    rw [run_succ, run_succ s k]
    cases step s with
    | next t => exact ih t
    | fault e | refused e => rfl

/-- Where the frame of digit `d` stands once it has delivered `n` words, `before` being what the sink held at its start (R90). -/
structure State.Delivered (d : Digit) (before : List PixWord) (n : Nat) (t : State) : Prop where
  dig : t.dig = d
  sink : ∃ ws, t.sink = before ++ ws ∧
    ws.map Except.ok = (List.range n).map fun p => pixel Config.glyphTable d (BitVec.ofNat 5 p)
  unfinished : n < 25 → t.busy = true ∧ t.pos.toNat = n
  finished : n = 25 → t.busy = false ∧ t.pos = 0
  le : n ≤ 25

/-- A started frame has delivered nothing yet. -/
theorem delivered_zero {s : State} (hb : s.busy = true) (hp : s.pos = 0) : s.Delivered s.dig s.sink 0 where
  dig := rfl
  sink := ⟨[], by simp⟩
  unfinished _ := ⟨hb, by simp [hp]⟩
  finished h := by cases h
  le := Nat.zero_le 25

/-- A step of a frame in progress adds PIXEL(DIG, POS) to the sink if the sink is ready, and nothing if not. -/
theorem sink_of_busy_step {s t : State} (hb : s.busy = true) (hr : s.nextInputs.rst = false) (h : step s = .next t) :
    pixel Config.glyphTable s.dig s.pos = .ok t.out.pixData ∧
      t.sink = if s.nextInputs.pixReady then s.sink ++ [t.out.pixData] else s.sink := by
  obtain ⟨hdata, hvalid, -, -⟩ := outputs_eq_ok (outputs_of_step h)
  refine ⟨by simpa [State.pixData, hb] using hdata, ?_⟩
  rw [sink_of_step h, hvalid, inp_of_step h, hb, hr]
  rfl

/-- A step that does not find the sink ready delivers nothing (R89). -/
theorem delivered_hold {d : Digit} {before : List PixWord} {n : Nat} {s t : State} (hs : s.Delivered d before n)
    (hn : n < 25) (hr : s.nextInputs.rst = false) (hp : s.nextInputs.pixReady = false) (h : step s = .next t) :
    t.Delivered d before n := by
  obtain ⟨hdig, ⟨ws, hsink, hws⟩, hunf, -, -⟩ := hs
  obtain ⟨hb, hpos⟩ := hunf hn
  obtain ⟨-, hsink'⟩ := sink_of_busy_step hb hr h
  have hdig' := dig_of_step h (.inl hb)
  have hbusy' := busy_of_step h
  have hpos' := pos_of_step h
  simp only [hr, hb, hp, Bool.false_eq_true, if_false, if_true] at hsink' hdig' hbusy' hpos'
  exact ⟨hdig'.trans hdig, ⟨ws, hsink'.trans hsink, hws⟩, fun _ => ⟨hbusy', hpos' ▸ hpos⟩,
    fun hlast => absurd hlast hn.ne, hn.le⟩

/-- A step that finds the sink ready delivers the word at POS, and ends the frame if that was the last (R88). -/
theorem delivered_transfer {d : Digit} {before : List PixWord} {n : Nat} {s t : State} (hs : s.Delivered d before n)
    (hn : n < 25) (hr : s.nextInputs.rst = false) (hp : s.nextInputs.pixReady = true) (h : step s = .next t) :
    t.Delivered d before (n + 1) := by
  obtain ⟨hdig, ⟨ws, hsink, hws⟩, hunf, -, -⟩ := hs
  obtain ⟨hb, hpos⟩ := hunf hn
  obtain ⟨hword, hsink'⟩ := sink_of_busy_step hb hr h
  have hdig' := dig_of_step h (.inl hb)
  have hbusy' := busy_of_step h
  have hpos' := pos_of_step h
  simp only [hr, hb, hp, Bool.false_eq_true, if_false, if_true] at hsink' hdig' hbusy' hpos'
  have hoffered : pixel Config.glyphTable d (BitVec.ofNat 5 n) = .ok t.out.pixData := by
    rw [← hdig, ← hpos, BitVec.ofNat_toNat, BitVec.setWidth_eq, hword]
  refine ⟨hdig'.trans hdig, ⟨ws ++ [t.out.pixData], ?_, ?_⟩, fun hlt => ?_, fun hlast => ?_, hn⟩
  · rw [hsink', hsink, List.append_assoc]
  · rw [List.range_succ, List.map_append, List.map_append, hws, List.map_singleton, List.map_singleton, hoffered]
  · have hne : s.pos ≠ 24 := by bv_omega
    rw [if_neg hne] at hpos'
    exact ⟨by simpa [hbusy'] using hne, by bv_omega⟩
  · have heq : s.pos = 24 := by bv_omega
    exact ⟨by simp [hbusy', heq], by simp [hpos', heq]⟩

/-- One step of an unfinished frame: one more word where the sink is ready. -/
theorem delivered_step {d : Digit} {before : List PixWord} {n : Nat} {s t : State} (hs : s.Delivered d before n)
    (hn : n < 25) (hr : s.nextInputs.rst = false) (h : step s = .next t) :
    t.Delivered d before (n + if s.nextInputs.pixReady then 1 else 0) := by
  cases hp : s.nextInputs.pixReady with
  | false => exact delivered_hold hs hn hr hp h
  | true => exact delivered_transfer hs hn hr hp h

theorem readyCount_append_singleton (ins : List Inputs) (i : Inputs) :
    readyCount (ins ++ [i]) = readyCount ins + if i.pixReady then 1 else 0 := by
  cases hp : i.pixReady <;> simp [readyCount, List.filter_append, hp]

theorem readyCount_dropLast_le (ins : List Inputs) : readyCount ins.dropLast ≤ readyCount ins :=
  ((List.dropLast_sublist ins).filter _).length_le

/-- A run from a started frame: by induction on the inputs from their end, since what is asked of them (the frame is unfinished
before the last) is what each but the last step needs. -/
theorem delivered_run {s : State} (hs : s.Legal) (hb : s.busy = true) (hp : s.pos = 0) (ins : List Inputs)
    (hin : s.Receives ins) (hno : NoReset ins) (hlast : readyCount ins.dropLast < 25) :
    ∃ t, s.run ins.length = .next t ∧ t.Delivered s.dig s.sink (readyCount ins) := by
  induction ins using List.reverseRecOn with
  | nil => exact ⟨s, rfl, delivered_zero hb hp⟩
  | append_singleton ins i ih =>
    rw [List.dropLast_concat] at hlast
    obtain ⟨u, hu, hdel⟩ := ih ((List.prefix_append _ _).trans hin) (fun j hj => hno j (List.mem_append_left _ hj))
      ((readyCount_dropLast_le ins).trans_lt hlast)
    obtain ⟨u', hu', hlegal, hstim⟩ := run_of_legal hs ins.length
    obtain rfl : u' = u := Host.Outcome.next.inj (hu'.symm.trans hu)
    obtain ⟨rest, hrest⟩ := hin
    have hi : u'.nextInputs = i := nextInputs_of_cons (rest := rest) (by rw [hstim, ← hrest]; simp)
    obtain ⟨t, ht⟩ := step_of_legal hlegal
    refine ⟨t, ?_, ?_⟩
    · rw [List.length_append, List.length_singleton, run_succ_last, hu, andThen_next, ht]
    · rw [readyCount_append_singleton, ← hi]
      exact delivered_step hdel hlast (hi ▸ hno i (by simp)) ht

/-- Settles O45: the first step starts a frame and moves no word, and the run from there delivers it. -/
theorem frameDeliversTwentyFiveWords : Obligations.FrameDeliversTwentyFiveWords := by
  intro s i ins hs hb hin hno hf hlast
  obtain ⟨rest, hrest⟩ := hin
  have hi : s.nextInputs = i := nextInputs_of_cons hrest.symm
  have hr : s.nextInputs.rst = false := hi ▸ hno i List.mem_cons_self
  obtain ⟨s₁, h, hb₁, hp₁, hdig, -⟩ := counterReadIsNotTorn s hs hb hr (hi ▸ hf)
  have hread : s₁.dig = s.cnt ∨ s₁.dig = s₁.cnt := by rw [hdig]; exact drawDigit_cases _ _ _
  obtain ⟨-, hvalid, -, -⟩ := outputs_eq_ok (outputs_of_step h)
  have hsink : s₁.sink = s.sink := by rw [sink_of_step h, hvalid, hb]; rfl
  have hin₁ : s₁.Receives ins := ⟨rest, by rw [stim_of_step h, ← hrest]; rfl⟩
  obtain ⟨t, ht, ⟨hdig', ⟨ws, hws, hwords⟩, hunf, hfin, hle⟩⟩ :=
    delivered_run (stepKeepsLegal s s₁ hs h) hb₁ hp₁ ins hin₁ (fun j hj => hno j (List.mem_cons_of_mem i hj)) hlast
  exact ⟨s₁, t, ws, h, hread, hsink, (run_succ_of_step h _).trans ht, hdig', hsink ▸ hws, hwords, hunf, hfin, hle⟩

end Sys2Proof.Machine
end

section
/-! PROOFS of the family 41_debounce: the comparator (R110), the edge operations (R111 to R113), the counter over a run (R114), and
the debounce law with its consequences (R115 to R117). -/

namespace Sys2Proof.Machine

/-! ## The comparator and the edge operations -/

/-- Settles O18: the two cases of the comparator are the time gone back or not. -/
theorem comparatorIsStrict : Obligations.ComparatorIsStrict := by
  intro now last d
  refine ⟨fun h => by simp [accept_of_le h], accept_of_lt, ?_, ?_, ?_⟩
  · simp [accept_of_le (Nat.le_add_right last 200000)]
  · simp [accept_of_le (Nat.le_add_right last 200001)]
  · simp [accept_of_le (le_refl last)]

theorem strobe_of_edgeA_mem : ∀ d : DecodeWord, Instr.edgeA ∈ selected d → d.getLsbD 5 = false ∧ d.getLsbD 4 = true := by
  decide

theorem strobe_of_edgeB_mem : ∀ d : DecodeWord, Instr.edgeB ∈ selected d → d.getLsbD 5 = false ∧ d.getLsbD 3 = true := by
  decide

/-- Settles O19: a step that selects EDGE_A is one without reset in which edge A is presented, and its list begins with it. -/
theorem edgeACompletes : Obligations.EdgeACompletes := by
  refine ⟨fun s => exec_edgeA s, fun s h => ?_⟩
  obtain ⟨hrst, ha, -⟩ := getLsbD_decodeWord s.nextInputs s.busy
  obtain ⟨hr, hedge⟩ := strobe_of_edgeA_mem _ h
  have hsel := selected_decodeWord_without_reset s.nextInputs s.busy (hrst.symm.trans hr)
  rw [ha.symm.trans hedge] at hsel
  exact ⟨_, hsel, fun _ => rfl⟩

/-- Settles O20: a step that selects EDGE_B is one without reset in which edge B is presented. -/
theorem edgeBCompletes : Obligations.EdgeBCompletes := by
  refine ⟨fun s => exec_edgeB s, fun s h => ?_⟩
  obtain ⟨hrst, -, hb, -⟩ := getLsbD_decodeWord s.nextInputs s.busy
  obtain ⟨hr, hedge⟩ := strobe_of_edgeB_mem _ h
  have hsel := selected_decodeWord_without_reset s.nextInputs s.busy (hrst.symm.trans hr)
  rw [hb.symm.trans hedge, List.append_assoc] at hsel
  exact ⟨_, hsel⟩

/-- Up for one button and down for the other, mod 10 (R111 to R113). -/
theorem incDigit_decDigit_toNat {c : Digit} (hc : c.toNat ≤ 9) (a b : Bool) :
    (if b then decDigit (if a then incDigit c else c) else if a then incDigit c else c).toNat =
      (c.toNat + (if a then 1 else 0) + (if b then 9 else 0)) % 10 := by
  simp only [apply_ite BitVec.toNat, incDigit_toNat, decDigit_toNat]
  split <;> split <;> omega

/-- The two counter updates commute, on an illegal counter too (R113). -/
theorem decDigit_incDigit (c : Digit) : decDigit (incDigit c) = incDigit (decDigit c) := by
  apply BitVec.eq_of_toNat_eq
  simp only [incDigit_toNat, decDigit_toNat]
  omega

/-- The edges of one step in either order (R113): each is accepted or not whatever the other does, and writes its own timestamp. -/
theorem edgeB_edgeA (s : State) : s.edgeA.edgeB = s.edgeB.edgeA := by
  have hcnt : s.edgeA.edgeB.cnt = s.edgeB.edgeA.cnt := by
    rw [State.edgeB_cnt, State.edgeA_cnt, State.edgeA_cnt, State.edgeB_cnt, acceptsB_edgeA, acceptsA_edgeB]
    cases s.acceptsA <;> cases s.acceptsB <;> simp [decDigit_incDigit]
  rw [State.eta s.edgeA.edgeB, State.eta s.edgeB.edgeA, hcnt]
  simp [State.edgeA_tsa, State.edgeB_tsb]

/-- Settles O21: R113's results are those of the state after edge A and then edge B. -/
theorem edgesOfOneStepCommute : Obligations.EdgesOfOneStepCommute := by
  refine ⟨fun s hr ha hb => ?_, fun s => ⟨?_, fun hc => ⟨s.edgeA.edgeB, by simp, ?_⟩⟩⟩
  · have hsel := selected_decodeWord_without_reset s.nextInputs s.busy hr
    rw [ha, hb] at hsel
    exact ⟨_, hsel⟩
  · simp [edgeB_edgeA]
  · have hcnt : s.edgeA.edgeB.cnt.toNat =
        (s.cnt.toNat + (if s.acceptsA then 1 else 0) + (if s.acceptsB then 9 else 0)) % 10 := by
      rw [State.edgeB_cnt, State.edgeA_cnt, acceptsB_edgeA, incDigit_decDigit_toNat hc]
    refine ⟨by rw [State.edgeB_tsa, State.edgeA_tsa], by rw [State.edgeB_tsb]; simp, hcnt, fun hboth => ?_⟩
    apply BitVec.eq_of_toNat_eq
    rw [hcnt, hboth]
    split <;> omega

/-! ## The two buttons -/

/-- A button of the block. What R110 to R117 say of button A they say of button B, and so do the lemmas below. -/
inductive Button where
  | a
  | b

namespace Button

/-- The button's edge strobe. -/
def edge : Button → Inputs → Bool
  | .a, i => i.edgeA
  | .b, i => i.edgeB

/-- The register that holds the time of the button's last accepted edge. -/
def stamp : Button → State → Time
  | .a, s => s.tsa
  | .b, s => s.tsb

/-- The button's draw, the answer of ACCEPT where the time has gone back (R110). -/
def draw : Button → Nat → Time → Time → Bool
  | .a => Config.drawAcceptA
  | .b => Config.drawAcceptB

/-- Whether the coming step accepts an edge of the button. -/
def takes : Button → State → Bool
  | .a, s => s.takesA
  | .b, s => s.takesB

/-- The times of the button's edges accepted in the next `k` steps. -/
def acceptedTimes : Button → State → Nat → List Nat
  | .a, s, k => s.acceptedTimesA k
  | .b, s, k => s.acceptedTimesB k

/-- How many of the button's edges are accepted in the next `k` steps. -/
def accepted : Button → State → Nat → Nat
  | .a, s, k => s.acceptedA k
  | .b, s, k => s.acceptedB k

variable {x : Button} {s t : State}

/-! ### one step -/

/-- What the coming step accepts, for either button (R110). -/
theorem takes_eq (x : Button) (s : State) :
    x.takes s = (!s.nextInputs.rst && x.edge s.nextInputs &&
      accept s.nextInputs.nowUs.toNat (x.stamp s).toNat (x.draw s.tick s.nextInputs.nowUs (x.stamp s))) := by
  cases x <;> rfl

theorem takes_of_no_edge (h : x.edge s.nextInputs = false) : x.takes s = false := by
  simp [takes_eq, h]

theorem edge_of_takes (h : x.takes s = true) : x.edge s.nextInputs = true := by
  by_contra he
  simp [takes_of_no_edge (Bool.eq_false_of_not_eq_true he)] at h

/-- An edge whose time is not before the timestamp is accepted exactly when it is past the window (R110). -/
theorem takes_iff_of_le (hr : s.nextInputs.rst = false) (he : x.edge s.nextInputs = true)
    (hle : (x.stamp s).toNat ≤ s.nextInputs.nowUs.toNat) :
    x.takes s = true ↔ s.nextInputs.nowUs.toNat - (x.stamp s).toNat > 200000 := by
  simp [takes_eq, hr, he, accept_of_le hle]

/-- A step without reset writes a timestamp exactly when it accepts an edge of the button (R111, R112). -/
theorem stamp_of_step (hr : s.nextInputs.rst = false) (h : step s = .next t) :
    x.stamp t = if x.takes s then s.nextInputs.nowUs else x.stamp s := by
  obtain ⟨-, ha, hb⟩ := debounce_of_step h
  rw [hr, debounced_tsa _ _ hr] at ha
  rw [hr, debounced_tsb _ _ hr] at hb
  cases x
  · exact ha
  · exact hb

theorem stamp_of_taken (ht : x.takes s = true) (hr : s.nextInputs.rst = false) (h : step s = .next t) :
    x.stamp t = s.nextInputs.nowUs := by
  rw [stamp_of_step hr h, if_pos ht]

theorem stamp_of_not_taken (ht : x.takes s = false) (hr : s.nextInputs.rst = false) (h : step s = .next t) :
    x.stamp t = x.stamp s := by
  rw [stamp_of_step hr h, ht, if_neg Bool.false_ne_true]

/-- A timestamp not past the time of its button's edge takes that time exactly when the edge is past the window (R110, R117). -/
theorem stamp_of_step_of_le (hr : s.nextInputs.rst = false) (he : x.edge s.nextInputs = true)
    (hle : (x.stamp s).toNat ≤ s.nextInputs.nowUs.toNat) (h : step s = .next t) :
    x.stamp t = if s.nextInputs.nowUs.toNat - (x.stamp s).toNat > 200000 then s.nextInputs.nowUs else x.stamp s := by
  rw [stamp_of_step hr h]
  exact if_congr (takes_iff_of_le hr he hle) rfl rfl

/-! ### one step from a timestamp at 0 (R116) -/

theorem takes_iff_of_zero (hr : s.nextInputs.rst = false) (he : x.edge s.nextInputs = true) (h0 : x.stamp s = 0) :
    x.takes s = true ↔ s.nextInputs.nowUs.toNat > 200000 := by
  simpa [h0] using takes_iff_of_le (x := x) hr he (by simp [h0])

theorem stamp_of_step_of_zero (hr : s.nextInputs.rst = false) (he : x.edge s.nextInputs = true) (h0 : x.stamp s = 0)
    (h : step s = .next t) :
    x.stamp t = if s.nextInputs.nowUs.toNat > 200000 then s.nextInputs.nowUs else 0 := by
  simpa [h0] using stamp_of_step_of_le (x := x) hr he (by simp [h0]) h

end Button

/-- A step without reset moves CNT up for an accepted A edge and down for an accepted B edge (R111 to R113). -/
theorem cnt_of_step {s t : State} (hc : s.cnt.toNat ≤ 9) (hr : s.nextInputs.rst = false) (h : step s = .next t) :
    t.cnt.toNat =
      (s.cnt.toNat + (if Button.a.takes s then 1 else 0) + (if Button.b.takes s then 9 else 0)) % 10 := by
  obtain ⟨hcnt, -, -⟩ := debounce_of_step h
  rw [hcnt, hr, if_neg Bool.false_ne_true, debounced_cnt _ _ hr]
  exact incDigit_decDigit_toNat hc s.takesA s.takesB

/-! ## Accepted edges of a run -/

theorem along_succ {α : Type} {s t : State} (f : State → α) (h : step s = .next t) (k : Nat) :
    s.along f (k + 1) = f s :: t.along f k := by
  rw [State.along, h]

theorem along_eq_map {α : Type} (f : State → α) (s : State) (k : Nat) : s.along f k = (s.along id k).map f := by
  induction k generalizing s with
  | zero => rfl
  | succ k ih =>
    simp only [State.along, List.map_cons, id]
    cases step s with
    | next t => exact congrArg _ (ih t)
    | fault e | refused e => rfl

namespace Button

variable {x : Button} {s u : State}

/-- The time of the button's edge that the coming step accepts, if it accepts one. -/
def acceptedTime (x : Button) (s : State) : Option Nat := if x.takes s then some s.nextInputs.nowUs.toNat else none

/-- The times of the accepted edges of a run, for either button. -/
theorem acceptedTimes_eq (x : Button) (s : State) (k : Nat) :
    x.acceptedTimes s k = (s.along x.acceptedTime k).filterMap id := by
  cases x <;> rfl

theorem accepted_eq (x : Button) (s : State) (k : Nat) : x.accepted s k = ((s.along x.takes k).filter id).length := by
  cases x <;> rfl

/-- The accepted edges of a button are as many as their times. -/
theorem accepted_eq_length (x : Button) (s : State) (k : Nat) : x.accepted s k = (x.acceptedTimes s k).length := by
  rw [accepted_eq, acceptedTimes_eq, along_eq_map x.takes, along_eq_map x.acceptedTime]
  induction s.along id k with
  | nil => rfl
  | cons t ts ih => cases ht : x.takes t <;> simpa [acceptedTime, ht] using ih

/-- The times at which the samples present an edge of the button. -/
def edgeTimes (x : Button) (ins : List Inputs) : List Nat := (ins.filter x.edge).map (·.nowUs.toNat)

theorem edgeTimes_of_edge {i : Inputs} {ins : List Inputs} (h : x.edge i = true) :
    x.edgeTimes (i :: ins) = i.nowUs.toNat :: x.edgeTimes ins := by
  simp [edgeTimes, h]

theorem edgeTimes_of_no_edge {i : Inputs} {ins : List Inputs} (h : x.edge i = false) :
    x.edgeTimes (i :: ins) = x.edgeTimes ins := by
  simp [edgeTimes, h]

theorem acceptedTimes_zero (x : Button) (s : State) : x.acceptedTimes s 0 = [] := by
  rw [acceptedTimes_eq]; rfl

theorem acceptedTimes_of_taken (ht : x.takes s = true) (h : step s = .next u) (k : Nat) :
    x.acceptedTimes s (k + 1) = s.nextInputs.nowUs.toNat :: x.acceptedTimes u k := by
  simp [acceptedTimes_eq, along_succ _ h, acceptedTime, ht]

theorem acceptedTimes_of_not_taken (ht : x.takes s = false) (h : step s = .next u) (k : Nat) :
    x.acceptedTimes s (k + 1) = x.acceptedTimes u k := by
  simp [acceptedTimes_eq, along_succ _ h, acceptedTime, ht]

theorem length_acceptedTimes_succ (x : Button) (h : step s = .next u) (k : Nat) :
    (x.acceptedTimes s (k + 1)).length = (if x.takes s then 1 else 0) + (x.acceptedTimes u k).length := by
  cases ht : x.takes s with
  | true => simp [acceptedTimes_of_taken ht h, Nat.add_comm]
  | false => simp [acceptedTimes_of_not_taken ht h]

end Button

/-- The machine goes from `s` to `t` by one step without reset for each of the samples. -/
inductive State.Drives : State → List Inputs → State → Prop where
  | nil (s : State) : Drives s [] s
  | cons {s u t : State} {ins : List Inputs} (hr : s.nextInputs.rst = false) (hstep : step s = .next u)
      (hrest : Drives u ins t) : Drives s (s.nextInputs :: ins) t

/-- A run from a legal state over samples without reset completes, one step for each. -/
theorem drives_of_receives {s : State} (hs : s.Legal) {ins : List Inputs} (hin : s.Receives ins) (hno : NoReset ins) :
    ∃ t, s.run ins.length = .next t ∧ s.Drives ins t := by
  induction ins generalizing s with
  | nil => exact ⟨s, rfl, .nil s⟩
  | cons i ins ih =>
    obtain ⟨rest, hrest⟩ := hin
    obtain rfl : s.nextInputs = i := nextInputs_of_cons hrest.symm
    obtain ⟨u, hu⟩ := step_of_legal hs
    have hinu : u.Receives ins := ⟨rest, by rw [stim_of_step hu, ← hrest]; rfl⟩
    obtain ⟨t, ht, hdrives⟩ := ih (stepKeepsLegal s u hs hu) hinu fun j hj => hno j (List.mem_cons_of_mem _ hj)
    exact ⟨t, (run_succ_of_step hu _).trans ht, .cons (hno _ List.mem_cons_self) hu hdrives⟩

/-- A state on the way of a run is legal, with the samples before it behind it and the next one at its ports. -/
theorem reached_of_run {s u : State} {ins : List Inputs} {k : Nat} (hs : s.Legal) (hin : s.Receives ins) (hno : NoReset ins)
    (hk : k < ins.length) (hu : s.run k = .next u) : s.Drives (ins.take k) u ∧ u.Legal ∧ u.nextInputs = ins[k] := by
  obtain ⟨v, hv, hdrives⟩ := drives_of_receives hs ((List.take_prefix k ins).trans hin)
    fun i hi => hno i (List.mem_of_mem_take hi)
  obtain ⟨w, hw, hlegal, hstim⟩ := run_of_legal hs k
  rw [List.length_take_of_le hk.le, hu] at hv
  rw [hu] at hw
  cases hv
  cases hw
  obtain ⟨rest, hrest⟩ := hin
  refine ⟨hdrives, hlegal, nextInputs_of_cons (rest := ins.drop (k + 1) ++ rest) ?_⟩
  rw [hstim, ← hrest, List.drop_append_of_le_length hk.le, List.drop_eq_getElem_cons hk, List.cons_append]

/-! ## The counter over a run -/

namespace State.Drives

variable {x : Button} {s t : State} {ins : List Inputs}

/-- A run moves CNT by its accepted edges (R114). -/
theorem cnt_toNat (h : s.Drives ins t) (hc : s.cnt.toNat ≤ 9) :
    t.cnt.toNat = (s.cnt.toNat + Button.a.accepted s ins.length + 9 * Button.b.accepted s ins.length) % 10 := by
  simp only [Button.accepted_eq_length]
  induction h with
  | nil s => simp only [List.length_nil, Button.acceptedTimes_zero]; omega
  | @cons s u t ins hr hstep _ ih =>
    have hcnt := cnt_of_step hc hr hstep
    rw [ih (by omega), hcnt, List.length_cons, Button.length_acceptedTimes_succ _ hstep,
      Button.length_acceptedTimes_succ _ hstep]
    split <;> split <;> omega

/-- A timestamp ends as the last of its own value and the accepted times (R111, R112). -/
theorem getLast?_acceptedTimes (h : s.Drives ins t) :
    ((x.stamp s).toNat :: x.acceptedTimes s ins.length).getLast? = some (x.stamp t).toNat := by
  induction h with
  | nil s => simp [Button.acceptedTimes_zero]
  | @cons s u t ins hr hstep _ ih =>
    cases ht : x.takes s with
    | true =>
      rw [List.length_cons, Button.acceptedTimes_of_taken ht hstep, List.getLast?_cons_cons,
        ← Button.stamp_of_taken ht hr hstep, ih]
    | false =>
      rw [List.length_cons, Button.acceptedTimes_of_not_taken ht hstep, ← Button.stamp_of_not_taken ht hr hstep, ih]

end State.Drives

/-- Settles O22: the counter law of the run, and its special forms by arithmetic. -/
theorem counterCountsAcceptedEdges : Obligations.CounterCountsAcceptedEdges := by
  intro s ins hs hin hno
  obtain ⟨t, ht, hrun⟩ := drives_of_receives hs hin hno
  have hc : s.cnt.toNat ≤ 9 := hs.1
  have hcnt : t.cnt.toNat = (s.cnt.toNat + s.acceptedA ins.length + 9 * s.acceptedB ins.length) % 10 := hrun.cnt_toNat hc
  refine ⟨t, ht, hcnt, ?_, fun hb => ?_, fun ha => ?_, fun h0 hb => ?_, fun h0 ha => ?_⟩
  · omega
  · omega
  · omega
  · bv_omega
  · bv_omega

/-! ## The debounce law -/

/-- The edges of the button come in order, none of them before its timestamp `last` (the premise of R115). -/
def Button.InOrder (x : Button) (last : Time) (ins : List Inputs) : Prop :=
  (ins.filter x.edge).Pairwise (fun i j => i.nowUs.toNat ≤ j.nowUs.toNat) ∧
  ∀ i ∈ ins, x.edge i = true → last.toNat ≤ i.nowUs.toNat

/-- A step keeps the premise of R115 for the samples that are left: an accepted edge is not after any of them. -/
theorem Button.inOrder_of_step {x : Button} {s u : State} {ins : List Inputs} (hr : s.nextInputs.rst = false)
    (h : step s = .next u) (hord : x.InOrder (x.stamp s) (s.nextInputs :: ins)) : x.InOrder (x.stamp u) ins := by
  obtain ⟨hpair, hlast⟩ := hord
  cases ht : x.takes s with
  | true =>
    rw [List.filter_cons_of_pos (Button.edge_of_takes ht), List.pairwise_cons] at hpair
    obtain ⟨hfirst, hrest⟩ := hpair
    rw [Button.stamp_of_taken ht hr h]
    exact ⟨hrest, fun i hi he => hfirst i (List.mem_filter.2 ⟨hi, he⟩)⟩
  | false =>
    rw [Button.stamp_of_not_taken ht hr h]
    exact ⟨hpair.sublist ((List.sublist_cons_self _ _).filter _), fun i hi => hlast i (List.mem_cons_of_mem _ hi)⟩

/-- A run keeps the premise of R115 for the samples that are left. -/
theorem State.Drives.inOrder {x : Button} {s u : State} {ins rest : List Inputs} (h : s.Drives ins u)
    (hord : x.InOrder (x.stamp s) (ins ++ rest)) : x.InOrder (x.stamp u) rest := by
  induction h with
  | nil s => exact hord
  | cons hr hstep _ ih => exact ih (Button.inOrder_of_step hr hstep hord)

/-- The accepted edges of a run differ by more than 200000 (R115). -/
theorem State.Drives.isChain_acceptedTimes {x : Button} {s t : State} {ins : List Inputs} (h : s.Drives ins t)
    (hord : x.InOrder (x.stamp s) ins) :
    ((x.stamp s).toNat :: x.acceptedTimes s ins.length).IsChain fun a b => b - a > 200000 := by
  induction h with
  | nil s => rw [List.length_nil, Button.acceptedTimes_zero]; exact .singleton _
  | @cons s u t ins hr hstep _ ih =>
    have hrest := ih (Button.inOrder_of_step hr hstep hord)
    obtain ⟨-, hlast⟩ := hord
    cases ht : x.takes s with
    | true =>
      have he := Button.edge_of_takes ht
      have hgap := (Button.takes_iff_of_le hr he (hlast _ List.mem_cons_self he)).1 ht
      rw [Button.stamp_of_taken ht hr hstep] at hrest
      rw [List.length_cons, Button.acceptedTimes_of_taken ht hstep]
      exact .cons_cons hgap hrest
    | false =>
      rwa [List.length_cons, Button.acceptedTimes_of_not_taken ht hstep, ← Button.stamp_of_not_taken ht hr hstep]

/-- An edge of the button within the window is dropped (R110, R115). -/
theorem Button.not_taken_of_window {x : Button} {s : State} (hr : s.nextInputs.rst = false) (he : x.edge s.nextInputs = true)
    (hle : (x.stamp s).toNat ≤ s.nextInputs.nowUs.toNat)
    (hwin : s.nextInputs.nowUs.toNat ≤ (x.stamp s).toNat + 200000) : x.takes s = false := by
  by_contra ht
  have := (takes_iff_of_le hr he hle).1 (Bool.eq_true_of_not_eq_false ht)
  omega

/-- On the way of a run an edge finds its button's timestamp not past its time, so that one within the window is dropped (R115). -/
theorem Button.not_taken_of_run {x : Button} {s u : State} {ins : List Inputs} {k : Nat} (hs : s.Legal) (hin : s.Receives ins)
    (hno : NoReset ins) (hord : x.InOrder (x.stamp s) ins) (hk : k < ins.length) (hu : s.run k = .next u)
    (he : x.edge u.nextInputs = true) (hwin : u.nextInputs.nowUs.toNat ≤ (x.stamp u).toNat + 200000) :
    x.takes u = false ∧ ∃ v, step u = .next v ∧ x.stamp v = x.stamp u := by
  obtain ⟨hdrives, hlegal, hi⟩ := reached_of_run hs hin hno hk hu
  have hr : u.nextInputs.rst = false := hi ▸ hno _ (List.getElem_mem hk)
  obtain ⟨-, hlast⟩ := hdrives.inOrder (rest := ins.drop k) (by rwa [List.take_append_drop])
  have hmem : u.nextInputs ∈ ins.drop k := by rw [hi, List.drop_eq_getElem_cons hk]; exact List.mem_cons_self
  have ht := not_taken_of_window hr he (hlast _ hmem he) hwin
  obtain ⟨v, hv⟩ := step_of_legal hlegal
  exact ⟨ht, v, hv, stamp_of_not_taken ht hr hv⟩

/-- The law of a whole run, for either button (R115). -/
theorem Button.acceptedTimes_of_run (x : Button) {s : State} {ins : List Inputs} (hs : s.Legal) (hin : s.Receives ins)
    (hno : NoReset ins) (hord : x.InOrder (x.stamp s) ins) :
    ∃ t, s.run ins.length = .next t ∧
      ((x.stamp s).toNat :: x.acceptedTimes s ins.length).IsChain (fun a b => b - a > 200000) ∧
      ((x.stamp s).toNat :: x.acceptedTimes s ins.length).getLast? = some (x.stamp t).toNat := by
  obtain ⟨t, ht, hrun⟩ := drives_of_receives hs hin hno
  exact ⟨t, ht, hrun.isChain_acceptedTimes hord, hrun.getLast?_acceptedTimes⟩

/-- The law of one step, for either button (R110). -/
theorem Button.takes_and_stamp_of_step (x : Button) {s : State} (hs : s.Legal) (hr : s.nextInputs.rst = false)
    (he : x.edge s.nextInputs = true) (hle : (x.stamp s).toNat ≤ s.nextInputs.nowUs.toNat) :
    (x.takes s = true ↔ s.nextInputs.nowUs.toNat - (x.stamp s).toNat > 200000) ∧
      ∃ t, step s = .next t ∧
        x.stamp t = if s.nextInputs.nowUs.toNat - (x.stamp s).toNat > 200000 then s.nextInputs.nowUs else x.stamp s := by
  obtain ⟨t, ht⟩ := step_of_legal hs
  exact ⟨takes_iff_of_le hr he hle, t, ht, stamp_of_step_of_le hr he hle ht⟩

/-- Settles O23: R115 for a run, on the way of it, and for one step, each for either button. -/
theorem debounceLaw : Obligations.DebounceLaw :=
  ⟨fun _ _ hs hin hno hpair hlast => ⟨Button.a.acceptedTimes_of_run hs hin hno ⟨hpair, hlast⟩,
      fun _ _ => Button.not_taken_of_run (x := .a) hs hin hno ⟨hpair, hlast⟩⟩,
    fun _ _ hs hin hno hpair hlast => ⟨Button.b.acceptedTimes_of_run hs hin hno ⟨hpair, hlast⟩,
      fun _ _ => Button.not_taken_of_run (x := .b) hs hin hno ⟨hpair, hlast⟩⟩,
    fun _ => Button.a.takes_and_stamp_of_step, fun _ => Button.b.takes_and_stamp_of_step⟩

/-! ## A bounce train -/

/-- Every edge of the button comes from its timestamp `last` to 200000 after it (R115). -/
def Button.WithinWindow (x : Button) (last : Time) (ins : List Inputs) : Prop :=
  ∀ i ∈ ins, x.edge i = true → last.toNat ≤ i.nowUs.toNat ∧ i.nowUs.toNat ≤ last.toNat + 200000

theorem Button.withinWindow_of_no_edge {x : Button} {ins : List Inputs} (h : ∀ i ∈ ins, x.edge i = false) (last : Time) :
    x.WithinWindow last ins :=
  fun i hi he => by simp [h i hi] at he

/-- No edge of a bounce train is accepted. -/
theorem State.Drives.acceptedTimes_of_withinWindow {x : Button} {s t : State} {ins : List Inputs} (h : s.Drives ins t)
    (hw : x.WithinWindow (x.stamp s) ins) : x.acceptedTimes s ins.length = [] := by
  induction h with
  | nil s => exact x.acceptedTimes_zero s
  | @cons s u t ins hr hstep _ ih =>
    obtain ⟨hfirst, hrest⟩ := List.forall_mem_cons.1 hw
    have ht : x.takes s = false := by
      cases he : x.edge s.nextInputs with
      | true => exact Button.not_taken_of_window hr he (hfirst he).1 (hfirst he).2
      | false => exact Button.takes_of_no_edge he
    have hstamp := Button.stamp_of_not_taken ht hr hstep
    rw [List.length_cons, Button.acceptedTimes_of_not_taken ht hstep, ih (hstamp ▸ hrest)]

/-- A bounce train leaves the timestamp (R115). -/
theorem State.Drives.stamp_of_withinWindow {x : Button} {s t : State} {ins : List Inputs} (h : s.Drives ins t)
    (hw : x.WithinWindow (x.stamp s) ins) : x.stamp t = x.stamp s := by
  have hlast := h.getLast?_acceptedTimes (x := x)
  rw [h.acceptedTimes_of_withinWindow hw, List.getLast?_singleton, Option.some_inj] at hlast
  exact (BitVec.eq_of_toNat_eq hlast).symm

/-- Bounce trains on both buttons leave CNT (R114, R115). -/
theorem State.Drives.cnt_of_withinWindow {s t : State} {ins : List Inputs} (h : s.Drives ins t) (hc : s.cnt.toNat ≤ 9)
    (ha : Button.a.WithinWindow s.tsa ins) (hb : Button.b.WithinWindow s.tsb ins) : t.cnt = s.cnt := by
  apply BitVec.eq_of_toNat_eq
  rw [h.cnt_toNat hc, Button.accepted_eq_length, Button.accepted_eq_length, h.acceptedTimes_of_withinWindow ha,
    h.acceptedTimes_of_withinWindow hb]
  exact Nat.mod_eq_of_lt (Nat.lt_succ_of_le hc)

/-- Settles O24: a button without an edge has a bounce train too, of no edge. -/
theorem bounceTrainIsDropped : Obligations.BounceTrainIsDropped := by
  intro s ins hs hin hno
  obtain ⟨t, ht, hrun⟩ := drives_of_receives hs hin hno
  have hc : s.cnt.toNat ≤ 9 := hs.1
  refine ⟨t, ht, fun ha => ⟨hrun.stamp_of_withinWindow (x := .a) ha, fun hb => ?_⟩,
    fun hb => ⟨hrun.stamp_of_withinWindow (x := .b) hb, fun ha => ?_⟩, hrun.cnt_of_withinWindow hc⟩
  · exact hrun.cnt_of_withinWindow hc ha (Button.withinWindow_of_no_edge hb _)
  · exact hrun.cnt_of_withinWindow hc (Button.withinWindow_of_no_edge ha _) hb

/-! ## The first edge after a reset -/

/-- Settles O25: a timestamp at 0 is not past any time, so that an edge is accepted exactly past the window. -/
theorem firstEdgeAfterReset : Obligations.FirstEdgeAfterReset := by
  refine ⟨rfl, rfl, fun s t hr h => ?_, fun s hs hr => ?_⟩
  · obtain ⟨-, ha, hb⟩ := debounce_of_step h
    rw [hr] at ha hb
    exact ⟨ha, hb⟩
  · obtain ⟨t, h⟩ := step_of_legal hs
    have hc : s.cnt.toNat ≤ 9 := hs.1
    have hcnt := cnt_of_step hc hr h
    have hkeep (x : Button) (h0 : x.stamp s = 0) (he : x.edge s.nextInputs = false) : x.stamp t = 0 :=
      (Button.stamp_of_not_taken (Button.takes_of_no_edge he) hr h).trans h0
    refine ⟨t, h, hkeep .a, hkeep .b,
      fun h0 he => ⟨Button.stamp_of_step_of_zero (x := .a) hr he h0 h, fun hno => ?_⟩,
      fun h0 he => ⟨Button.stamp_of_step_of_zero (x := .b) hr he h0 h, fun hno => ?_⟩⟩
    · rw [hcnt, Button.takes_of_no_edge (x := .b) hno, if_neg Bool.false_ne_true,
        if_congr (Button.takes_iff_of_zero (x := .a) hr he h0) rfl rfl]
      split <;> omega
    · rw [hcnt, Button.takes_of_no_edge (x := .a) hno, if_neg Bool.false_ne_true,
        if_congr (Button.takes_iff_of_zero (x := .b) hr he h0) rfl rfl]
      split <;> omega

/-! ## A spaced train -/

/-- Every edge of a spaced train is accepted (R117). -/
theorem State.Drives.acceptedTimes_of_spaced {x : Button} {s t : State} {ins : List Inputs} (h : s.Drives ins t)
    (hspaced : ((x.stamp s).toNat :: x.edgeTimes ins).IsChain fun a b => a + 200000 < b) :
    x.acceptedTimes s ins.length = x.edgeTimes ins := by
  induction h with
  | nil s => exact x.acceptedTimes_zero s
  | @cons s u t ins hr hstep _ ih =>
    cases he : x.edge s.nextInputs with
    | true =>
      rw [Button.edgeTimes_of_edge he] at hspaced ⊢
      obtain ⟨hgap, hrest⟩ := List.isChain_cons_cons.1 hspaced
      have ht : x.takes s = true := (Button.takes_iff_of_le hr he (by omega)).2 (by omega)
      have hstamp := Button.stamp_of_taken ht hr hstep
      rw [List.length_cons, Button.acceptedTimes_of_taken ht hstep, ih (hstamp ▸ hrest)]
    | false =>
      rw [Button.edgeTimes_of_no_edge he] at hspaced ⊢
      have ht : x.takes s = false := Button.takes_of_no_edge he
      have hstamp := Button.stamp_of_not_taken ht hr hstep
      rw [List.length_cons, Button.acceptedTimes_of_not_taken ht hstep, ih (hstamp ▸ hspaced)]

/-- A spaced train over a whole run, for either button (R117). -/
theorem Button.acceptedTimes_of_spaced_run (x : Button) {s : State} {ins : List Inputs} (hs : s.Legal) (hin : s.Receives ins)
    (hno : NoReset ins) (hspaced : ((x.stamp s).toNat :: x.edgeTimes ins).IsChain fun a b => a + 200000 < b) :
    x.acceptedTimes s ins.length = x.edgeTimes ins ∧
      ∃ t, s.run ins.length = .next t ∧
        ((x.stamp s).toNat :: x.edgeTimes ins).getLast? = some (x.stamp t).toNat := by
  obtain ⟨t, ht, hrun⟩ := drives_of_receives hs hin hno
  have htimes := hrun.acceptedTimes_of_spaced hspaced
  exact ⟨htimes, t, ht, htimes ▸ hrun.getLast?_acceptedTimes⟩

/-- Settles O56: the accepted times are all the times of the edges, and the timestamp ends as the last of them. -/
theorem spacedTrainIsAccepted : Obligations.SpacedTrainIsAccepted :=
  fun _ _ hs hin hno => ⟨Button.a.acceptedTimes_of_spaced_run hs hin hno, Button.b.acceptedTimes_of_spaced_run hs hin hno⟩

end Sys2Proof.Machine
end

section
/-! PROOFS of the family 60_exceptions: safe runs (R130), the stall without a timeout (R136), and the model faults with what follows
them (R131, R132). -/

namespace Sys2Proof.Machine

/-! ## Safe runs -/

theorem legal_reset : State.reset.Legal := by decide

/-- Settles O51: a run from a legal state completes in a legal one, and the reset state is legal. -/
theorem everyRunIsSafe : Obligations.EveryRunIsSafe := by
  have hsafe : ∀ (s : State) (k : Nat), s.Legal → ∃ t, s.run k = .next t ∧ t.Legal := fun s k hs => by
    obtain ⟨t, ht, hlegal, -⟩ := run_of_legal hs k
    exact ⟨t, ht, hlegal⟩
  refine ⟨hsafe, fun k => ?_⟩
  obtain ⟨t, ht, -⟩ := hsafe State.reset k legal_reset
  exact ⟨t, ht⟩

/-! ## A sink that is never ready -/

/-- A step that does not find the sink ready leaves the frame as it is (R89). -/
theorem frame_of_held_step {s t : State} (hb : s.busy = true) (hr : s.nextInputs.rst = false)
    (hp : s.nextInputs.pixReady = false) (h : step s = .next t) :
    t.busy = true ∧ t.pos = s.pos ∧ t.dig = s.dig ∧ t.sink = s.sink := by
  have hbusy := busy_of_step h
  have hpos := pos_of_step h
  have hdig := dig_of_step h (.inl hb)
  obtain ⟨-, hsink⟩ := sink_of_busy_step hb hr h
  simp only [hb, hr, hp, Bool.false_eq_true, if_false, if_true] at hbusy hpos hdig hsink
  exact ⟨hbusy, hpos, hdig, hsink⟩

/-- So does a run over samples that never find it ready, of any length (R136). -/
theorem State.Drives.frame_of_never_ready {s t : State} {ins : List Inputs} (h : s.Drives ins t) (hb : s.busy = true)
    (hstall : ∀ i ∈ ins, i.pixReady = false) :
    t.busy = true ∧ t.pos = s.pos ∧ t.dig = s.dig ∧ t.sink = s.sink := by
  induction h with
  | nil s => exact ⟨hb, rfl, rfl, rfl⟩
  | cons hr hstep _ ih =>
    obtain ⟨hp, hrest⟩ := List.forall_mem_cons.1 hstall
    obtain ⟨hbusy, hpos, hdig, hsink⟩ := frame_of_held_step hb hr hp hstep
    rw [← hpos, ← hdig, ← hsink]
    exact ih hbusy hrest

/-- Settles O46: the run completes from a legal state, and each of its steps holds the frame. -/
theorem stallHasNoTimeout : Obligations.StallHasNoTimeout := by
  intro s ins hs hb hin hno hstall
  obtain ⟨t, ht, hrun⟩ := drives_of_receives hs hin hno
  exact ⟨t, ht, hrun.frame_of_never_ready hb hstall⟩

/-! ## Where a step can fault -/

/-- The outputs cannot be formed only where PIXEL faults for a frame in progress (R32, log 6). -/
theorem outputs_eq_error {s : State} {rst : Bool} {f : Fault} (h : s.outputs rst = .error f) :
    s.busy = true ∧ pixel Config.glyphTable s.dig s.pos = .error f := by
  cases hb : s.busy with
  | false => simp [outputs_of_idle rst hb] at h
  | true =>
    cases hw : pixel Config.glyphTable s.dig s.pos with
    | ok w => simp [outputs_of_busy rst hb hw] at h
    | error e =>
      rw [outputs_of_fault rst hb hw] at h
      exact ⟨rfl, congrArg _ (Except.error.inj h)⟩

/-- PIXEL's faults: the position's, and at a legal position the digit's (R132). -/
theorem pixel_eq_error {g : GlyphTable} {d : Digit} {p : Position} {f : Fault} (h : pixel g d p = .error f) :
    (24 < p.toNat ∧ f = .posRange p) ∨ (p.toNat ≤ 24 ∧ 9 < d.toNat ∧ f = .digitRange d) := by
  rcases pixel_cases g d p with ⟨w, hw, -⟩ | ⟨hp, hf⟩ | ⟨hp, hd, hf⟩
  · simp [hw] at h
  · exact .inl ⟨hp, (Except.error.inj (hf.symm.trans h)).symm⟩
  · exact .inr ⟨hp, hd, (Except.error.inj (hf.symm.trans h)).symm⟩

/-- Of the operations of a step whose outputs can be formed only FRAME_START can fault: a transfer's word has been formed already. -/
theorem frameStart_of_step_fault {s : State} {o : Outputs} {f : Fault} (ho : s.outputs s.nextInputs.rst = .ok o)
    (h : step s = .fault f) :
    s.nextInputs.rst = false ∧ s.busy = false ∧ s.nextInputs.frameStart = true ∧
      exec .frameStart (s.debounced o) = .fault f := by
  cases hr : s.nextInputs.rst with
  | true => simp [step_of_reset hr ho] at h
  | false =>
    rw [step_eq_nextWithoutReset hr ho, nextWithoutReset_eq s o hr] at h
    cases hb : s.busy with
    | true => cases hp : s.nextInputs.pixReady <;> simp [hb, hp] at h
    | false =>
      cases hf : s.nextInputs.frameStart with
      | false => simp [hb, hf] at h
      | true =>
        simp only [hb, hf, Bool.false_eq_true, if_false, if_true] at h
        rcases exec_frameStart_cases (s.debounced o) with ⟨hle, -⟩ | ⟨hlt, hx⟩
        · simp [Nat.not_lt.2 hle] at h
        · rw [if_pos hlt] at h
          exact ⟨rfl, rfl, rfl, hx.trans h⟩

/-- An accepted edge leaves a legal counter, so that CNT past 9 after the debounce updates is CNT as it was (R111, R112). -/
theorem debounced_cnt_of_gt {s : State} {o : Outputs} (hr : s.nextInputs.rst = false) (h : 9 < (s.debounced o).cnt.toNat) :
    (s.debounced o).cnt = s.cnt := by
  have hinc := incDigit_le s.cnt
  have hdec := decDigit_le (if s.takesA then incDigit s.cnt else s.cnt)
  rw [debounced_cnt s o hr] at h ⊢
  cases hB : s.takesB with
  | true => simp only [hB, if_true] at h; omega
  | false =>
    cases hA : s.takesA with
    | true => simp only [hA, hB, Bool.false_eq_true, if_false, if_true] at h; omega
    | false => simp

/-- A frame start that reads a digit past 9 reads CNT as it was at the start of the step (R52). -/
theorem frameDigit_debounced_of_gt {s : State} {o : Outputs} (hr : s.nextInputs.rst = false)
    (h : 9 < (s.debounced o).frameDigit.toNat) : (s.debounced o).frameDigit = s.cnt := by
  rcases drawDigit_cases s.cnt (s.debounced o).cnt (Config.drawFrame s.tick s.cnt (s.debounced o).cnt) with hd | hd <;>
    rw [← frameDigit_debounced] at hd
  · exact hd
  · rw [hd] at h ⊢
    exact debounced_cnt_of_gt hr h

/-- A frame start in a step faults only with CNT, past 9 (R22, R131). -/
theorem cnt_of_frameStart_fault {s : State} {o : Outputs} {f : Fault} (hr : s.nextInputs.rst = false)
    (h : exec .frameStart (s.debounced o) = .fault f) : 9 < s.cnt.toNat ∧ f = .digitRange s.cnt := by
  rcases exec_frameStart_cases (s.debounced o) with ⟨-, hx⟩ | ⟨hlt, hx⟩ <;> rw [hx] at h
  · cases h
  · have hd := frameDigit_debounced_of_gt hr hlt
    rw [hd] at hlt h
    exact ⟨hlt, (Host.Outcome.fault.inj h).symm⟩

/-! ## States whose step must fault -/

theorem step_of_pixel_fault {s : State} {f : Fault} (hb : s.busy = true)
    (h : pixel Config.glyphTable s.dig s.pos = .error f) : step s = .fault f :=
  step_of_output_fault (outputs_of_fault _ hb h)

theorem debounced_of_no_edge {s : State} (hA : s.nextInputs.edgeA = false) (hB : s.nextInputs.edgeB = false) (o : Outputs) :
    s.debounced o = s.openStep o := by
  simp [State.debounced, hA, hB]

theorem step_of_illegal_counter {s : State} (hb : s.busy = false) (hr : s.nextInputs.rst = false)
    (hf : s.nextInputs.frameStart = true) (hcnt : 9 < s.cnt.toNat) (hA : s.nextInputs.edgeA = false)
    (hB : s.nextInputs.edgeB = false) : step s = .fault (.digitRange s.cnt) := by
  have ho := outputs_of_idle s.nextInputs.rst hb
  have hx (o : Outputs) : exec .frameStart (s.openStep o) = .fault (.digitRange s.cnt) :=
    frameStartFaultsOnIllegalCounter (s.openStep o) rfl hcnt
  simp [step_without_reset hr ho, hb, hf, debounced_of_no_edge hA hB, hx]

/-- Settles O52: a fault comes from forming the outputs or from FRAME_START, and each of the states named makes one of them fault. -/
theorem stepFaultsExactly : Obligations.StepFaultsExactly := by
  refine ⟨fun s f h => ?_, fun s => ⟨fun hb hp => step_of_pixel_fault hb (pixel_of_position _ _ hp),
    fun hb hp hd => step_of_pixel_fault hb (pixel_of_digit _ hp hd), step_of_illegal_counter⟩⟩
  cases ho : s.outputs s.nextInputs.rst with
  | error e =>
    obtain rfl : e = f := Host.Outcome.fault.inj ((step_of_output_fault ho).symm.trans h)
    obtain ⟨hb, hpix⟩ := outputs_eq_error ho
    rcases pixel_eq_error hpix with hpos | hdig
    · exact .inl ⟨hb, hpos⟩
    · exact .inr (.inl ⟨hb, hdig⟩)
  | ok o =>
    obtain ⟨hr, hb, hf, hx⟩ := frameStart_of_step_fault ho h
    exact .inr (.inr ⟨hb, hr, hf, cnt_of_frameStart_fault hr hx⟩)

/-! ## Nothing follows a fault -/

/-- The edge operations that the inputs select, in the order of the step (R62, R135). -/
def edgeOps (i : Inputs) : List Instr :=
  (if i.edgeA then [.edgeA] else []) ++ (if i.edgeB then [.edgeB] else [])

theorem execAll_edgeOps (s : State) (o : Outputs) :
    execAll (edgeOps s.nextInputs) (s.openStep o) = .next (s.debounced o) := by
  cases hA : s.nextInputs.edgeA <;> cases hB : s.nextInputs.edgeB <;> simp [edgeOps, State.debounced, hA, hB]

theorem selected_of_frameStart {s : State} (hr : s.nextInputs.rst = false) (hb : s.busy = false)
    (hf : s.nextInputs.frameStart = true) :
    selected s.decodeWord = edgeOps s.nextInputs ++ [.frameStart] := by
  rw [State.decodeWord, selected_decodeWord_without_reset _ _ hr, hb, hf]
  rfl

/-- A run whose first step faults ends there. -/
theorem run_succ_of_fault {s : State} {f : Fault} (h : step s = .fault f) (k : Nat) : s.run (k + 1) = .fault f := by
  rw [run_succ, h, andThen_fault]

/-- Settles O53: the operations before FRAME_START are the edges, which complete; and each of the three states faults in its next
step. -/
theorem nothingFollowsAFault : Obligations.NothingFollowsAFault := by
  refine ⟨fun s o f ho h => ?_, fun s k => ?_⟩
  · obtain ⟨hr, hb, hf, hx⟩ := frameStart_of_step_fault ho h
    exact ⟨_, _, selected_of_frameStart hr hb hf, execAll_edgeOps s o, hx⟩
  · obtain ⟨hpos, hdig, hcnt⟩ := stepFaultsExactly.2 s
    exact ⟨fun hb hp => run_succ_of_fault (hpos hb hp) k, fun hb hp hd => run_succ_of_fault (hdig hb hp hd) k,
      fun hb hr hf hc hA hB => run_succ_of_fault (hcnt hb hr hf hc hA hB) k⟩

end Sys2Proof.Machine
end

section
/-! PROOFS of the family 70_reset_and_hazards: RESET and a step with `rst = 1` (R150, R135), the state a run starts in (R151), and
an edge after a clock wrap (R157). -/

namespace Sys2Proof.Machine

/-! ## Reset -/

/-- Settles O15: the step is the reset alone between its start and its end, and `pix_valid` is BUSY with `rst` at 0. -/
theorem resetDominatesTheStep : Obligations.ResetDominatesTheStep := by
  intro s o hr ho
  obtain ⟨-, hvalid, -, -⟩ := outputs_eq_ok ho
  have hstep : step s = .next (s.openStep o).resetRegs.closeStep := step_of_reset hr (hr.symm ▸ ho)
  have hquiet : o.pixValid = false := by simpa using hvalid
  exact ⟨_, hstep, rfl, rfl, rfl, rfl, rfl, rfl, rfl, hquiet, rfl⟩

/-- Settles O14: RESET writes the six registers and nothing else. -/
theorem resetCompletes : Obligations.ResetCompletes := exec_reset

/-- Settles O17: each register of the reset state is the value written in it. -/
theorem resetStateRegisters : Obligations.ResetStateRegisters := ⟨rfl, rfl, rfl, rfl, rfl, rfl⟩

/-- Settles O48: the reset registers are legal, and no word has been received that could be illegal. -/
theorem resetIsLegal : Obligations.ResetIsLegal := ⟨legal_reset, List.forall_mem_nil _⟩

/-! ## An edge after a clock wrap -/

theorem acceptsA_of_wrap {s : State} (h : s.inp.nowUs.toNat < s.tsa.toNat) :
    s.acceptsA = Config.drawAcceptA s.tick s.inp.nowUs s.tsa := accept_of_lt h

theorem acceptsB_of_wrap {s : State} (h : s.inp.nowUs.toNat < s.tsb.toNat) :
    s.acceptsB = Config.drawAcceptB s.tick s.inp.nowUs s.tsb := accept_of_lt h

/-- An edge that is taken or dropped tells which by its result, where the two differ. `hu` has the form of `edgeA_cases` and
`edgeB_cases`. -/
theorem next_eq_iff_accepted {s u taken : State} {accepted : Bool} (hne : taken ≠ s)
    (hu : (accepted = true ∧ u = taken) ∨ (accepted = false ∧ u = s)) :
    ((.next u : Host.Outcome State Fault Refusal) = .next taken ↔ accepted = true) ∧
    ((.next u : Host.Outcome State Fault Refusal) = .next s ↔ accepted = false) := by
  obtain ⟨rfl, rfl⟩ | ⟨rfl, rfl⟩ := hu
  · simp [hne]
  · simp [hne.symm]

/-- Settles O26: before the timestamp the comparator is the draw, and an edge taken differs from one dropped in its timestamp. -/
theorem clockWrapHasTwoOutcomes : Obligations.ClockWrapHasTwoOutcomes := by
  refine fun s => ⟨fun hlt => ?_, fun hlt => ?_⟩
  · have hne : (s.setCnt (incDigit s.cnt)).setTsa s.inp.nowUs ≠ s := fun h =>
      hlt.ne (congrArg (fun t : State => t.tsa.toNat) h)
    rw [← acceptsA_of_wrap hlt]
    exact next_eq_iff_accepted hne (edgeA_cases s)
  · have hne : (s.setCnt (decDigit s.cnt)).setTsb s.inp.nowUs ≠ s := fun h =>
      hlt.ne (congrArg (fun t : State => t.tsb.toNat) h)
    rw [← acceptsB_of_wrap hlt]
    exact next_eq_iff_accepted hne (edgeB_cases s)

end Sys2Proof.Machine
end

section
/-! PROOFS of the family of the decoder: what it refuses by name, and what it reads from the words of the opcode table (log 11). -/

namespace Sys2Proof

/-! ## Refusals of the decoder -/

/-- The decoder's test of a byte is a test of its bits 7 and 6. -/
theorem and_highBits_eq_zero_iff : ∀ b : Byte, b &&& 0xC0 = 0 ↔ b.getLsbD 7 = false ∧ b.getLsbD 6 = false := by decide

theorem decode_of_highBits_set {b : Byte} (rest : List Byte) (h : b.getLsbD 7 = true ∨ b.getLsbD 6 = true) :
    decode (b :: rest) = .error (.highBits b) := by
  have hset : ¬ b &&& 0xC0 = 0 := by
    rw [and_highBits_eq_zero_iff, not_and_or, Bool.not_eq_false, Bool.not_eq_false]
    exact h
  rw [decode, if_neg hset]

theorem decode_of_highBits_clear {b : Byte} (rest : List Byte) (h : b.getLsbD 7 = false ∧ b.getLsbD 6 = false) :
    decode (b :: rest) = .ok (selected (b.setWidth 6), rest) := by
  rw [decode, if_pos ((and_highBits_eq_zero_iff b).2 h)]

/-- Settles O5: the bits 7 and 6 of the first byte tell which of the decoder's answers it gets. -/
theorem decoderRefusesByName : Obligations.DecoderRefusesByName :=
  ⟨rfl, fun _ rest => ⟨decode_of_highBits_set rest, fun h => ⟨_, decode_of_highBits_clear rest h⟩⟩⟩

/-! ## Words of the opcode table -/

/-- A decode word's number is read from one byte, and that byte is the word's own. -/
theorem bytesOf_toNat (d : DecodeWord) : bytesOf 1 d.toNat = [wordByte d] := by
  rw [bytesOf, bytesOf, BitVec.ofNat_toNat, wordByte]

theorem decodeTableWord_toNat (d : DecodeWord) : decodeTableWord 8 d.toNat = (selected d).head? := by
  rw [decodeTableWord, bytesOf_toNat, decode_wordByte]

/-- With every don't-care bit 0 a row's word selects no row above it in the table. -/
theorem head?_selected_pattern (i : Instr) : (selected i.pattern).head? = some i := by
  cases i <;> decide

theorem decodeTableWord_pattern (i : Instr) : decodeTableWord 8 i.pattern.toNat = some i := by
  rw [decodeTableWord_toNat, head?_selected_pattern]

/-- Settles O6: the eight words are the `match` column of the table. -/
theorem tableWordsDecodeRight : Obligations.TableWordsDecodeRight :=
  ⟨decodeTableWord_pattern .reset, decodeTableWord_pattern .edgeA, decodeTableWord_pattern .edgeB,
    decodeTableWord_pattern .frameStart, decodeTableWord_pattern .frameStartIgnored,
    decodeTableWord_pattern .pixelTransfer, decodeTableWord_pattern .pixelHold, decodeTableWord_pattern .seqIdle⟩

end Sys2Proof
end
